-- ==== Sys2Proof/Word.lean ====
section
/-! DEFINITION. The word types of FXDP (00_scope.md R8, R9): registers are 32 bits, the parse accumulator 64,
buffer cells are bytes, the host window's offsets are 12 bits and a write carries 4 byte strobes. -/

namespace Sys2Proof

/-- A register, a command word, or the data of one host transaction (R8, R16, R54). -/
abbrev Word := BitVec 32

/-- The Q32.32 parse accumulator `{ACC_HI, ACC_LO}` (R34). -/
abbrev Wide := BitVec 64

/-- One cell of OUT or TXT (R36, R37). -/
abbrev Byte := BitVec 8

/-- A byte offset in the 4 KiB host window (R40, R43). -/
abbrev Offset := BitVec 12

/-- The byte strobes of a host write (R40, R47). -/
abbrev Strobes := BitVec 4

end Sys2Proof
end

