-- ==== Sys2Proof/Syntax.lean ====
section
/-! DEFINITION. The command set of FXDP: one constructor for each row of the opcode map (30_encoding.md R56). -/

namespace Sys2Proof

/-- The 13 commands, with the command-word fields each one uses (R54, R56). Every other operand comes from a
register named in the command's rule (R55). -/
inductive Instr where
  /-- NOP (R94). -/
  | nop
  /-- EMIT e, s: ARG = e, the start place exponent, and SKIP (R72). -/
  | emit (e : BitVec 4) (skip : Bool)
  /-- FPROJ (R75). -/
  | fproj
  /-- FMT (R76). -/
  | fmt
  /-- PCLR (R80). -/
  | pclr
  /-- PIDIG d: ARG = d (R81). -/
  | pidig (d : BitVec 4)
  /-- PSEED (R82). -/
  | pseed
  /-- PFDIG d: ARG = d (R83). -/
  | pfdig (d : BitVec 4)
  /-- PFCOMB (R84). -/
  | pfcomb
  /-- PEDIG d: ARG = d (R85). -/
  | pedig (d : BitVec 4)
  /-- PEXP (R86). -/
  | pexp
  /-- PDOWN sh: SHIFT (R88). -/
  | pdown (sh : Bool)
  /-- PARSE ae, sh: AEXP and SHIFT (R89). -/
  | parse (ae sh : Bool)
  deriving DecidableEq, Repr

end Sys2Proof
end

