-- ==== Sys2Proof/WellFormed.lean ====
section
/-! DEFINITION. What makes a command term well-formed: the ARG bound of 30_encoding.md R54 and R57. -/

namespace Sys2Proof

/-- ARG is legal: 0..9 (R54). -/
def argOk (a : BitVec 4) : Bool := decide (a.toNat ≤ 9)

/-- A command that some legal word stands for (R57): where ARG is used, it is at most 9. -/
def Instr.wf : Instr → Bool
  | .nop => true
  | .emit e _ => argOk e
  | .fproj => true
  | .fmt => true
  | .pclr => true
  | .pidig d => argOk d
  | .pseed => true
  | .pfdig d => argOk d
  | .pfcomb => true
  | .pedig d => argOk d
  | .pexp => true
  | .pdown _ => true
  | .parse _ _ => true

end Sys2Proof
end

