-- ==== Sys2Proof/Decode.lean ====
section
/-! DEFINITION. The command word (30_encoding.md R54 to R57): its fields, the decoder, total on every 32-bit word and
rejecting by name, the encoder, and the match/mask rows of R56 as a table of their own.

A command is one 32-bit register value, never bytes in memory (R46, R54), so the decoder reads a word. -/

namespace Sys2Proof

/-- Why a word is illegal (R57). The three reasons are the model's names; the hardware answers ILL for each. -/
inductive Illegal where
  /-- OP is 0xD, 0xE or 0xF. -/
  | reservedOpcode
  /-- A bit that must be 0 for this opcode is 1. -/
  | fixedBitSet
  /-- ARG is 10..15 in a command that uses ARG. -/
  | argTooLarge
  deriving DecidableEq, Repr

/-! ### Fields of a command word (R54) -/

/-- OP, bits 3:0. -/
def opField (w : Word) : BitVec 4 := w.extractLsb' 0 4

/-- RSV0, bits 7:4. -/
def rsv0Field (w : Word) : BitVec 4 := w.extractLsb' 4 4

/-- ARG, bits 11:8. -/
def argField (w : Word) : BitVec 4 := w.extractLsb' 8 4

/-- SKIP, bit 12. -/
def skipField (w : Word) : Bool := w.getLsbD 12

/-- AEXP, bit 13. -/
def aexpField (w : Word) : Bool := w.getLsbD 13

/-- SHIFT, bit 14. -/
def shiftField (w : Word) : Bool := w.getLsbD 14

/-- RSV1, bits 31:15. -/
def rsv1Field (w : Word) : BitVec 17 := w.extractLsb' 15 17

/-! ### Decoding -/

/-- Which of the fields ARG, SKIP, AEXP and SHIFT a command uses; the others must be 0 (R54). -/
structure FieldUse where
  arg : Bool := false
  skip : Bool := false
  aexp : Bool := false
  shift : Bool := false
  deriving DecidableEq, Repr

/-- Every reserved bit, and every field the command does not use, is 0 (R54, the "fixed-zero bits" of R56). -/
def unusedZero (u : FieldUse) (w : Word) : Bool :=
  rsv0Field w == 0 && rsv1Field w == 0
    && (u.arg || argField w == 0) && (u.skip || !skipField w)
    && (u.aexp || !aexpField w) && (u.shift || !shiftField w)

/-- The command `i`, if the bits it must leave 0 are 0 and its own fields have legal values (R57). -/
def checked (u : FieldUse) (w : Word) (i : Instr) : Except Illegal Instr :=
  if unusedZero u w then (if i.wf then .ok i else .error .argTooLarge) else .error .fixedBitSet

/-- The command a word stands for, or why it is illegal (R56, R57). -/
def decode (w : Word) : Except Illegal Instr :=
  match (opField w).toNat with
  | 0x0 => checked {} w .nop
  | 0x1 => checked { arg := true, skip := true } w (.emit (argField w) (skipField w))
  | 0x2 => checked {} w .fproj
  | 0x3 => checked {} w .fmt
  | 0x4 => checked {} w .pclr
  | 0x5 => checked { arg := true } w (.pidig (argField w))
  | 0x6 => checked {} w .pseed
  | 0x7 => checked { arg := true } w (.pfdig (argField w))
  | 0x8 => checked {} w .pfcomb
  | 0x9 => checked { arg := true } w (.pedig (argField w))
  | 0xA => checked {} w .pexp
  | 0xB => checked { shift := true } w (.pdown (shiftField w))
  | 0xC => checked { aexp := true, shift := true } w (.parse (aexpField w) (shiftField w))
  | _ => .error .reservedOpcode

/-- The decoder on a row of the opcode table: `w` is the instruction's bits, bit 0 the least significant; the bits
from `nbits` up to 31 are 0. A command is one 32-bit word, so a longer row is none of FXDP's. -/
def decodeTableWord (nbits w : Nat) : Option Instr :=
  if nbits ≤ 32 then (decode (BitVec.ofNat 32 (w % 2 ^ nbits))).toOption else none

/-! ### Encoding (R58) -/

/-- A 4-bit field placed at bit `k`. -/
def placeArg (a : BitVec 4) (k : Nat) : Word := a.zeroExtend 32 <<< k

/-- A one-bit field placed at bit `k`. -/
def placeBit (b : Bool) (k : Nat) : Word := (BitVec.ofBool b).zeroExtend 32 <<< k

/-- The word of a command, as R58 writes it. -/
def encode : Instr → Word
  | .nop => 0x00000000#32
  | .emit e s => 0x00000001#32 ||| placeArg e 8 ||| placeBit s 12
  | .fproj => 0x00000002#32
  | .fmt => 0x00000003#32
  | .pclr => 0x00000004#32
  | .pidig d => 0x00000005#32 ||| placeArg d 8
  | .pseed => 0x00000006#32
  | .pfdig d => 0x00000007#32 ||| placeArg d 8
  | .pfcomb => 0x00000008#32
  | .pedig d => 0x00000009#32 ||| placeArg d 8
  | .pexp => 0x0000000A#32
  | .pdown sh => 0x0000000B#32 ||| placeBit sh 14
  | .parse ae sh => 0x0000000C#32 ||| placeBit ae 13 ||| placeBit sh 14

/-! ### The match and mask rows of R56 -/

/-- One row of R56: a word selects it iff `w & mask = match`; `usesArg` rows also need ARG <= 9. -/
structure OpcodeRow where
  mnemonic : String
  matchBits : Word
  mask : Word
  usesArg : Bool
  deriving DecidableEq, Repr

/-- The rows, as R56 lists them. -/
def opcodeRows : List OpcodeRow :=
  [ ⟨"NOP", 0x00000000#32, 0xFFFFFFFF#32, false⟩,
    ⟨"EMIT", 0x00000001#32, 0xFFFFE0FF#32, true⟩,
    ⟨"FPROJ", 0x00000002#32, 0xFFFFFFFF#32, false⟩,
    ⟨"FMT", 0x00000003#32, 0xFFFFFFFF#32, false⟩,
    ⟨"PCLR", 0x00000004#32, 0xFFFFFFFF#32, false⟩,
    ⟨"PIDIG", 0x00000005#32, 0xFFFFF0FF#32, true⟩,
    ⟨"PSEED", 0x00000006#32, 0xFFFFFFFF#32, false⟩,
    ⟨"PFDIG", 0x00000007#32, 0xFFFFF0FF#32, true⟩,
    ⟨"PFCOMB", 0x00000008#32, 0xFFFFFFFF#32, false⟩,
    ⟨"PEDIG", 0x00000009#32, 0xFFFFF0FF#32, true⟩,
    ⟨"PEXP", 0x0000000A#32, 0xFFFFFFFF#32, false⟩,
    ⟨"PDOWN", 0x0000000B#32, 0xFFFFBFFF#32, false⟩,
    ⟨"PARSE", 0x0000000C#32, 0xFFFF9FFF#32, false⟩ ]

/-- A word selects a row (R56). -/
def OpcodeRow.selects (r : OpcodeRow) (w : Word) : Bool := w &&& r.mask == r.matchBits

/-- A word is legal by R57: it selects a row and, where the row uses ARG, ARG <= 9. -/
def legalByRows (w : Word) : Bool :=
  opcodeRows.any (fun r => r.selects w && (!r.usesArg || decide ((argField w).toNat ≤ 9)))

/-- The mnemonic of a command in R56. -/
def Instr.mnemonic : Instr → String
  | .nop => "NOP"
  | .emit _ _ => "EMIT"
  | .fproj => "FPROJ"
  | .fmt => "FMT"
  | .pclr => "PCLR"
  | .pidig _ => "PIDIG"
  | .pseed => "PSEED"
  | .pfdig _ => "PFDIG"
  | .pfcomb => "PFCOMB"
  | .pedig _ => "PEDIG"
  | .pexp => "PEXP"
  | .pdown _ => "PDOWN"
  | .parse _ _ => "PARSE"

end Sys2Proof
end

