-- ==== Sys2Proof/Config.lean ====
section
/-! DEFINITION. The implementation parameters of 00_scope.md R8 and the model's free values.

The parameters are plain data; a machine carries one `Params` in its state, unchanged by every step (log entry 1).
The free values are constants with no body: whatever is proved holds for every choice of them. -/

namespace Sys2Proof

/-- FRAC_MUL_ROUND, the rounding of the fraction-projection multiply (R8, R62). -/
inductive MulRound where
  | nearestUp
  | truncate
  deriving DecidableEq, Repr

/-- DOWNCVT_ROUND, the rounding of the parse down-conversion (R8, R88). -/
inductive DownRound where
  | truncate
  | nearestUp
  deriving DecidableEq, Repr

/-- The parameters of R8 that a rule's result depends on. BASE and CYC_<op> are free values below. -/
structure Params where
  /-- OUT_LEN, bytes in OUT. -/
  outLen : Nat
  /-- TXT_LEN, bytes in TXT. -/
  txtLen : Nat
  /-- FRAC_MUL_ROUND. -/
  fracMulRound : MulRound
  /-- DOWNCVT_ROUND. -/
  downcvtRound : DownRound
  /-- COMMA_SEP: ',' is accepted as a decimal separator. -/
  commaSep : Bool
  /-- EXP_BACKTRACK: an exponent marker that no digit follows is given back. -/
  expBacktrack : Bool
  /-- WS_SET: the bytes PARSE skips as leading whitespace, no repeats. -/
  wsSet : List Byte
  deriving DecidableEq, Repr

namespace Params

/-- Every parameter at the default of R8. -/
def default : Params where
  outLen := 16
  txtLen := 64
  fracMulRound := .nearestUp
  downcvtRound := .truncate
  commaSep := false
  expBacktrack := false
  wsSet := [0x09#8, 0x0A#8, 0x0B#8, 0x0C#8, 0x0D#8, 0x20#8]

/-- A byte that R8 forbids in WS_SET: 0x00, '+', '-' or a digit. -/
def barredFromWs (c : Byte) : Bool :=
  c == 0x00#8 || c == 0x2B#8 || c == 0x2D#8 || (decide (0x30 ≤ c.toNat) && decide (c.toNat ≤ 0x39))

/-- The parameters have legal values (the "legal values" column of R8). -/
def wf (p : Params) : Bool :=
  decide (p.outLen % 4 = 0) && decide (16 ≤ p.outLen) && decide (p.outLen ≤ 256)
    && decide (p.txtLen % 4 = 0) && decide (4 ≤ p.txtLen) && decide (p.txtLen ≤ 2048)
    && p.wsSet.all (fun c => !barredFromWs c) && decide p.wsSet.Nodup

end Params

namespace Config

/-- FREE VALUE (R114, V2): the byte at window offset `a` after the `n`-th reset, until it is written. -/
opaque resetByte (n a : Nat) : Byte

/-- FREE VALUE (R41, R117, V1): what a host read answers while BUSY = 1, fresh for each draw. -/
opaque busyRead (draw : Nat) : Word

/-- FREE VALUE (R41, V3): the rdata of a read that gets the ERROR response, fresh for each draw. -/
opaque errorRead (draw : Nat) : Word

/-- FREE VALUE (R8, R120, V9): CYC_<op> - 1 for the command accepted at this draw, so that CYC_<op> >= 1. -/
opaque extraCycles (draw : Nat) : Nat

/-- FREE VALUE (R8, R44, V11): BASE / 4096. -/
opaque basePage : Nat

/-- BASE, the window's host address, 4 KiB-aligned (R8). -/
def base : Nat := 4096 * basePage

end Config

end Sys2Proof
end

