-- ==== Sys2Proof/Machine/State.lean ====
section
/-! DEFINITION. The state of FXDP (10_state.md), as plain data, and the state after reset (70_reset_and_hazards.md R114).

Every register of R16 that stores something has its field; ID and SCALE_TBL are constants and stand in the one operation
that reads registers (Machine/Ops.lean). The last six fields are the model's own: the parameters, the host's pending
operations, the responses given, and the counters the free values are drawn with. -/

namespace Sys2Proof.Machine

/-- The named registers of R16, `scaleTbl k` being SCALE_TBL[k]. -/
inductive Reg where
  | ctrl | status | id
  | value | digits | evalReg | outptr | len
  | fsign | fint | ffrac | fscale
  | pstart | pend | result | pflags
  | iacc | icnt | fval | fscl | expm | accLo | accHi
  | scaleTbl (k : Fin 8)
  deriving DecidableEq, Repr

/-- The bits of STATUS (R19). -/
inductive Flag where
  | busy | done | ill | wbusy | dovf | oovf | dz
  deriving DecidableEq, Repr

/-- What the host does in one step (R13, R40 to R42). Reads carry no strobes (R40: `strb` is of a write). -/
inductive HostOp where
  /-- `MemRead(BASE + off, 4)` (R41). -/
  | rd (off : Offset)
  /-- `MemWrite(BASE + off, 4, v)` with its byte strobes (R42). -/
  | wr (off : Offset) (strb : Strobes) (v : Word)
  /-- The pseudo-instruction WAIT (R59): read STATUS again until it shows BUSY = 0. -/
  | wait
  /-- No transaction is presented in this cycle (R40: sel = 0). -/
  | idle
  /-- rst_n is asserted and released (R113). -/
  | reset
  deriving DecidableEq, Repr

/-- The response of one host transaction (R40, R41, R42). -/
inductive Response where
  /-- OK, with the data read. -/
  | readOk (v : Word)
  /-- ERROR for a read; rdata is unspecified (R41, V3). -/
  | readError (v : Word)
  /-- OK for a write. -/
  | writeOk
  /-- ERROR for a write. -/
  | writeError
  deriving DecidableEq, Repr

/-- The busy sequencer (R38): the command word latched at acceptance, and how many more host steps pass before the
command completes (CYC_<op> counts them and the completion itself, R66, R120). -/
structure InFlight where
  cmd : Word
  left : Nat
  deriving DecidableEq, Repr

/-- The bytes of OUT and TXT that have been written since the last reset, keyed by window offset (R44):
addresses strictly rising, one cell an address. An address not listed holds its unspecified reset byte (R114). -/
abbrev Memory := List Host.Cell

/-- The state of FXDP. -/
structure State where
  /-- CTRL (R18): the last word written to it while idle. -/
  ctrl : Word
  /-- STATUS (R19): BUSY, DONE, ILL, WBUSY, DOVF, OOVF, DZ in bits 0 to 6. -/
  status : Word
  /-- VALUE (R21). -/
  value : Word
  /-- DIGITS (R22). -/
  digits : Word
  /-- EVAL (R23). -/
  evalReg : Word
  /-- OUTPTR (R24). -/
  outptr : Word
  /-- LEN (R25). -/
  len : Word
  /-- FSIGN (R26). -/
  fsign : Word
  /-- FINT (R26). -/
  fint : Word
  /-- FFRAC (R26). -/
  ffrac : Word
  /-- FSCALE (R26). -/
  fscale : Word
  /-- PSTART (R27). -/
  pstart : Word
  /-- PEND (R28). -/
  pend : Word
  /-- RESULT (R29). -/
  result : Word
  /-- PFLAGS (R30): NEG in bit 0, EXPNEG in bit 1. -/
  pflags : Word
  /-- IACC (R31). -/
  iacc : Word
  /-- ICNT (R31). -/
  icnt : Word
  /-- FVAL (R32). -/
  fval : Word
  /-- FSCL (R32). -/
  fscl : Word
  /-- EXPM (R33). -/
  expm : Word
  /-- ACC_LO (R34). -/
  accLo : Word
  /-- ACC_HI (R34). -/
  accHi : Word
  /-- OUT and TXT (R36, R37). -/
  mem : Memory
  /-- The hidden sequencer state, present exactly while a command runs (R38, R66). -/
  inFlight : Option InFlight
  /-- The implementation parameters (R8); no step changes them. MODEL'S OWN (log entry 1). -/
  params : Params
  /-- What the host does next, oldest first. MODEL'S OWN (log entry 7). -/
  inbox : List HostOp
  /-- The responses given so far, newest first. MODEL'S OWN (log entry 7). -/
  responses : List Response
  /-- How many free values have been drawn. MODEL'S OWN (log entries 3, 4, 5). -/
  draws : Nat
  /-- How many resets have happened; selects the unspecified buffer bytes. MODEL'S OWN (log entry 2). -/
  resets : Nat
  deriving DecidableEq, Repr

/-- Where a step stops. -/
inductive Fault where
  /-- Raised by `step` when the sequencer is to complete a latched word that is no legal command. No run gets there:
  only legal words are latched (R66), and `State.Inv` (Safety.lean) says so. Safe: the model stops (log entry 11). -/
  | latchedIllegal
  deriving DecidableEq, Repr

/-- Why an instruction has no meaning here. -/
inductive Refusal where
  /-- Raised by `exec` for a command that has no meaning yet; none is left. Safe. -/
  | notModelled (mnemonic : String)
  deriving DecidableEq, Repr

/-- The state after reset (R114, the reset column of R16): FSCL is 1, every other stored register 0, no command
latched, OUT and TXT unspecified (nothing listed). The model's own fields start with the default parameters, no
pending host operation, no response and both counters 0 (DESIGN CHOICE, log entries 1, 7 and 15). -/
def State.reset : State where
  ctrl := 0x00000000#32
  status := 0x00000000#32
  value := 0x00000000#32
  digits := 0x00000000#32
  evalReg := 0x00000000#32
  outptr := 0x00000000#32
  len := 0x00000000#32
  fsign := 0x00000000#32
  fint := 0x00000000#32
  ffrac := 0x00000000#32
  fscale := 0x00000000#32
  pstart := 0x00000000#32
  pend := 0x00000000#32
  result := 0x00000000#32
  pflags := 0x00000000#32
  iacc := 0x00000000#32
  icnt := 0x00000000#32
  fval := 0x00000000#32
  fscl := 0x00000001#32
  expm := 0x00000000#32
  accLo := 0x00000000#32
  accHi := 0x00000000#32
  mem := []
  inFlight := none
  params := .default
  inbox := []
  responses := []
  draws := 0
  resets := 0

end Sys2Proof.Machine
end

