-- ==== Sys2Proof/Machine/Flags.lean ====
section
/-! DEFINITION. The flags FXDP has (R39): the bits of STATUS (R19) and of PFLAGS (R30), as computations on words. -/

namespace Sys2Proof.Machine

/-- The bit number of a flag in STATUS (R19); for ILL to DZ it is the condition's code in R95. -/
def Flag.bit : Flag → Nat
  | .busy => 0
  | .done => 1
  | .ill => 2
  | .wbusy => 3
  | .dovf => 4
  | .oovf => 5
  | .dz => 6

/-- The flag's bit as a mask. -/
def Flag.mask (f : Flag) : Word := 1#32 <<< f.bit

/-- STATUS with the flag set; a flag already 1 stays 1 (R66). -/
def setFlag (w : Word) (f : Flag) : Word := w ||| f.mask

/-- STATUS with the flag cleared. -/
def clearFlag (w : Word) (f : Flag) : Word := w &&& ~~~f.mask

/-- The W1C bits of STATUS: DONE, ILL, WBUSY, DOVF, OOVF and DZ (R19). -/
def w1cMask : Word := 0x0000007E#32

/-- STATUS after a host write of `v` while idle: each W1C bit written as 1 is cleared, all else stays (R19). -/
def w1cWrite (old v : Word) : Word := old &&& ~~~(v &&& w1cMask)

/-- STATUS after completion: BUSY 0 and DONE 1 (R66). -/
def completedStatus (w : Word) : Word := setFlag (clearFlag w .busy) .done

/-- The bits of PFLAGS that exist: NEG and EXPNEG (R30). -/
def pflagsMask : Word := 0x00000003#32

/-- NEG, bit 0 of PFLAGS (R30). -/
def negFlag (pf : Word) : Bool := pf.getLsbD 0

/-- EXPNEG, bit 1 of PFLAGS (R30). -/
def expNegFlag (pf : Word) : Bool := pf.getLsbD 1

/-- PFLAGS with NEG set. -/
def setNeg (pf : Word) : Word := pf ||| 0x00000001#32

/-- PFLAGS with EXPNEG set. -/
def setExpNeg (pf : Word) : Word := pf ||| 0x00000002#32

/-- PFLAGS with EXPNEG cleared. -/
def clearExpNeg (pf : Word) : Word := pf &&& ~~~0x00000002#32

end Sys2Proof.Machine
end

