-- ==== Sys2Proof/Machine/Operands.lean ====
section
/-! DEFINITION. Operand forms and the shared datapath functions: operand assembly (30_encoding.md R55), the digit count
(10_state.md R22), the scale table, EXP10, MULR and the character classes (40_datapath.md R60 to R63). -/

namespace Sys2Proof.Machine

/-! ### Fields of the command word, zero-extended (R55) -/

/-- `cmd.ARG` as a number. -/
def argValue (a : BitVec 4) : Nat := a.toNat

/-- The EMIT start place `10^cmd.ARG` (R55). -/
def startPlace (e : BitVec 4) : Nat := 10 ^ argValue e

/-- The requested digit count: bits 2:0 of DIGITS, the rest ignored (R22; 90_conflicts.md C4). -/
def digitCount (dd : Word) : Nat := (dd.extractLsb' 0 3).toNat

/-! ### Scale table (R60, R61) -/

/-- `SCALE(k)`. -/
def scale : Nat → Nat
  | 0 => 1
  | 1 => 10
  | 2 => 100
  | 3 => 1000
  | 4 => 10000
  | _ => 100000

/-- `EXP10(s)` for a scale-table entry above 1: the k with 10^k = s. -/
def exp10 (s : Nat) : Nat :=
  if s = 10 then 1 else if s = 100 then 2 else if s = 1000 then 3 else if s = 10000 then 4
  else if s = 100000 then 5 else 0

/-! ### Fraction-projection multiply (R62) -/

/-- `MULR(a, s)`. -/
def mulr (r : MulRound) (a s : Nat) : Nat :=
  match r with
  | .nearestUp => (a * s + 2 ^ 15) / 2 ^ 16
  | .truncate => a * s / 2 ^ 16

/-! ### Characters (R63) -/

def chPlus : Byte := 0x2B#8
def chMinus : Byte := 0x2D#8
def chDot : Byte := 0x2E#8
def chComma : Byte := 0x2C#8
def chZero : Byte := 0x30#8
def chNul : Byte := 0x00#8

/-- `IsDigit(c)`. -/
def isDigit (c : Byte) : Bool := decide (0x30 ≤ c.toNat) && decide (c.toNat ≤ 0x39)

/-- The value of a digit character. -/
def digitValue (c : Byte) : Nat := c.toNat - 0x30

/-- `IsSpace(c)`: c is in WS_SET. -/
def isSpace (p : Params) (c : Byte) : Bool := decide (c ∈ p.wsSet)

/-- `IsSep(c)`: '.', or ',' when COMMA_SEP = true. -/
def isSep (p : Params) (c : Byte) : Bool := c == chDot || (p.commaSep && c == chComma)

/-- `IsExpMark(c)`: 'E' or 'e'. -/
def isExpMark (c : Byte) : Bool := c == 0x45#8 || c == 0x65#8

/-- The byte of a digit: `trunc_8(0x30 + d)` (R70). -/
def digitByte (d : Nat) : Byte := BitVec.ofNat 8 (0x30 + d)

end Sys2Proof.Machine
end

