-- ==== Sys2Proof/Machine/Ops.lean ====
section
/-! DEFINITION. The named operations over memory and registers, the exceptional conditions, and the two ends of a command.

FXDP has no traps (R103): every exceptional condition sets a sticky STATUS flag and execution goes on. `State.raise` is that
one shared operation, and there is no return from it (R104: a flag stays until the host writes 1 to it). -/

namespace Sys2Proof.Machine

/-! ### Memory: bytes of OUT and TXT keyed by window offset -/

namespace Memory

/-- The canonical form: addresses strictly rising. No listed cell can equal what an unlisted address reads as, because
`read` answers `none` there. -/
abbrev wf (m : Memory) : Prop := m.Pairwise (fun c d => c.1 < d.1)

/-- The byte written at `a` since the last reset, if any. -/
def read : Memory → Nat → Option Byte
  | [], _ => none
  | (x, y) :: rest, a => if x = a then some y else read rest a

/-- Write one byte. -/
def write : Memory → Nat → Byte → Memory
  | [], a, b => [(a, b)]
  | (x, y) :: rest, a, b =>
    if a < x then (a, b) :: (x, y) :: rest
    else if a = x then (a, b) :: rest
    else (x, y) :: write rest a b

end Memory

/-- The offset of OUT[0] (R44). -/
def outBase : Nat := 0x100

/-- The offset of TXT[0] (R44). -/
def txtBase : Nat := 0x800

/-- Offset `a` lies in the OUT window (R44). -/
def inOut (p : Params) (a : Nat) : Bool := decide (outBase ≤ a) && decide (a < outBase + p.outLen)

/-- Offset `a` lies in the TXT window (R44). -/
def inTxt (p : Params) (a : Nat) : Bool := decide (txtBase ≤ a) && decide (a < txtBase + p.txtLen)

namespace State

/-- The byte at window offset `a`: what was written there, else the unspecified reset byte (R114). -/
def byteAt (s : State) (a : Nat) : Byte := (Memory.read s.mem a).getD (Config.resetByte s.resets a)

/-- Write one byte at window offset `a`. -/
def writeByte (s : State) (a : Nat) (b : Byte) : State := { s with mem := Memory.write s.mem a b }

/-- The word at window offset `a`, little-endian (R46). Byte order is decided here and in `storeWord` only. -/
def loadWord (s : State) (a : Nat) : Word :=
  s.byteAt (a + 3) ++ s.byteAt (a + 2) ++ s.byteAt (a + 1) ++ s.byteAt a

/-- Store a word at window offset `a`, little-endian (R46). -/
def storeWord (s : State) (a : Nat) (v : Word) : State :=
  (((s.writeByte a (v.extractLsb' 0 8)).writeByte (a + 1) (v.extractLsb' 8 8)).writeByte (a + 2)
    (v.extractLsb' 16 8)).writeByte (a + 3) (v.extractLsb' 24 8)

/-! ### Flags and conditions (R19, R95) -/

/-- A STATUS bit. -/
def flag (s : State) (f : Flag) : Bool := s.status.getLsbD f.bit

/-- `raise <FLAG>`: set the sticky STATUS flag (R10, R95, R103). -/
def raise (s : State) (f : Flag) : State := { s with status := setFlag s.status f }

/-! ### OUT, TXT and the accumulator (R10, R64, R65) -/

/-- OUT[i] (R36). -/
def outAt (s : State) (i : Nat) : Byte := s.byteAt (outBase + i)

/-- `T(i)`: TXT[i] inside the buffer, 0x00 beyond it (R64). -/
def textAt (s : State) (i : Nat) : Byte := if i < s.params.txtLen then s.byteAt (txtBase + i) else chNul

/-- `OutByte(i, b)`: write OUT[i], or raise OOVF and drop the byte (R65). -/
def outByte (s : State) (i : Nat) (b : Byte) : State :=
  if i < s.params.outLen then s.writeByte (outBase + i) b else s.raise .oovf

/-- `OutByte` for each byte of a list, at `i`, `i + 1`, ..., the index wrapping modulo 2^32 (R72). -/
def outBytes : State → Nat → List Byte → State
  | s, _, [] => s
  | s, i, b :: bs => outBytes (s.outByte (i % 2 ^ 32) b) (i + 1) bs

/-- `x[ACC]` (R10, R34). -/
def acc (s : State) : Wide := s.accHi ++ s.accLo

/-- `x[ACC] <- v` (R10). -/
def setAcc (s : State) (v : Wide) : State :=
  { s with accHi := v.extractLsb' 32 32, accLo := v.extractLsb' 0 32 }

/-! ### The register file (R16 to R35) -/

/-- What a host read of the register answers while idle (R16, R20, R35, R41). -/
def readReg (s : State) : Reg → Word
  | .ctrl => s.ctrl
  | .status => s.status
  | .id => 0x46580107#32
  | .value => s.value
  | .digits => s.digits
  | .evalReg => s.evalReg
  | .outptr => s.outptr
  | .len => s.len
  | .fsign => s.fsign
  | .fint => s.fint
  | .ffrac => s.ffrac
  | .fscale => s.fscale
  | .pstart => s.pstart
  | .pend => s.pend
  | .result => s.result
  | .pflags => s.pflags
  | .iacc => s.iacc
  | .icnt => s.icnt
  | .fval => s.fval
  | .fscl => s.fscl
  | .expm => s.expm
  | .accLo => s.accLo
  | .accHi => s.accHi
  | .scaleTbl k => BitVec.ofNat 32 (scale k.val)

/-! ### The two ends of a command (R66) -/

/-- Delivery and acceptance or rejection of a command word while idle (R66 items 1 to 3, R96): CTRL takes the word
and DONE is cleared; an illegal word raises ILL; a legal one is latched, to complete after `left` further host steps. -/
def deliver (s : State) (w : Word) (left : Nat) : State :=
  let s := { s with ctrl := w, status := clearFlag s.status .done }
  match decode w with
  | .ok _ => { s with status := setFlag s.status .busy, inFlight := some ⟨w, left⟩ }
  | .error _ => s.raise .ill

/-- Completion (R66 item 4), after Exec's own writes: BUSY 0, DONE 1, the sequencer idle. -/
def complete (s : State) : State :=
  { s with status := completedStatus s.status, inFlight := none }

end State

/-- The outcome of a command's Exec, with its completion. -/
def completing : Host.Outcome State Fault Refusal → Host.Outcome State Fault Refusal
  | .next s => .next s.complete
  | .fault r => .fault r
  | .refused r => .refused r

end Sys2Proof.Machine
end

