-- ==== Sys2Proof/Machine/Control.lean ====
section
/-! DEFINITION. The control command NOP (45_control.md R94). -/

namespace Sys2Proof.Machine

/-- NOP: no change to any register, buffer or flag (R94); the command cycle sets DONE (R66). -/
def execNop (s : State) : Host.Outcome State Fault Refusal := .next s

end Sys2Proof.Machine
end

