-- ==== Sys2Proof/Machine/Emission.lean ====
section
/-! DEFINITION. Digit emission at descending scales (41_digit_emission.md R69 to R72). -/

namespace Sys2Proof.Machine

/-- `EmitDigits(v, e, skip)` (R69): the bytes and the overflow bit. The recursion goes down the places
10^e, 10^(e-1), ..., 1; a place whose digit is omitted leaves v as it is. -/
def emitDigits (v : Nat) : Nat → Bool → List Byte × Bool
  | 0, _ => ([digitByte v], decide (10 ≤ v))
  | e + 1, skip =>
    let place := 10 ^ (e + 1)
    let d := v / place
    if skip && d == 0 then emitDigits v e true
    else
      let (bs, ovf) := emitDigits (v % place) e false
      (digitByte d :: bs, decide (10 ≤ d) || ovf)

/-- Exec of EMIT (R72). -/
def doEmit (e : Nat) (skip : Bool) (s : State) : State :=
  let (bs, ovf) := emitDigits s.evalReg.toNat e skip
  let t := s.outBytes s.outptr.toNat bs
  let t := { t with outptr := BitVec.ofNat 32 (s.outptr.toNat + bs.length) }
  if ovf then t.raise .dovf else t

/-- EMIT e, s (R72). -/
def execEmit (e : BitVec 4) (skip : Bool) (s : State) : Host.Outcome State Fault Refusal :=
  .next (doEmit (argValue e) skip s)

end Sys2Proof.Machine
end

