-- ==== Sys2Proof/Machine/Formatter.lean ====
section
/-! DEFINITION. The formatter: the fraction projection, FPROJ and FMT (42_formatter.md R73 to R78). -/

namespace Sys2Proof.Machine

/-- What `Project` returns: the sign, the integer part and the scaled fraction after the carry, and the scale (R73). -/
structure Projection where
  neg : Bool
  ip : Nat
  fs : Nat
  s : Nat
  deriving DecidableEq, Repr

/-- The absolute magnitude of a Q16.16 value, 0..2^31 (R73, step 1). -/
def magnitude (vv : Word) : Nat := if vv.getLsbD 31 then (2 ^ 32 - vv.toNat) % 2 ^ 32 else vv.toNat

/-- `Project(vv, dd)` (R73). -/
def project (r : MulRound) (vv dd : Word) : Projection :=
  let u := magnitude vv
  let ip := u / 2 ^ 16
  let fr := u % 2 ^ 16
  let s := scale (digitCount dd)
  let fs := mulr r fr s
  if s ≤ fs then ⟨vv.getLsbD 31, ip + 1, fs - s, s⟩ else ⟨vv.getLsbD 31, ip, fs, s⟩

/-- Write FSIGN, FINT, FFRAC and FSCALE from a projection (R75, R76). -/
def writeProjection (s : State) (p : Projection) : State :=
  { s with
    fsign := (BitVec.ofBool p.neg).zeroExtend 32
    fint := BitVec.ofNat 32 p.ip
    ffrac := BitVec.ofNat 32 p.fs
    fscale := BitVec.ofNat 32 p.s }

/-- The projection of VALUE and DIGITS. -/
def State.projection (s : State) : Projection := project s.params.fracMulRound s.value s.digits

/-- FPROJ (R75). -/
def execFproj (s : State) : Host.Outcome State Fault Refusal := .next (writeProjection s s.projection)

/-- Steps 1, 5 and 6 of FMT: the bytes before the terminator (R76). -/
def rawText (p : Projection) : List Byte :=
  (if p.neg then [chMinus] else [])
    ++ (emitDigits p.ip 4 true).1
    ++ (if p.s = 1 then [] else chDot :: (emitDigits p.fs (exp10 p.s - 1) false).1)

/-- The strip loop of `Canon` (R77): while OUT[n - 1] = '0', step back and write 0x00 there. -/
def stripZeros : Nat → State → Nat × State
  | 0, s => (0, s)
  | n + 1, s => if s.outAt n = chZero then stripZeros n (s.outByte n chNul) else (n + 1, s)

/-- `Canon(n, dot)` before it records the length: the length and the buffer after stripping (R77). -/
def canon (n : Nat) (dot : Bool) (s : State) : Nat × State :=
  if dot then
    let (n, s) := stripZeros n s
    if s.outAt (n - 1) = chDot then (n - 1, s.outByte (n - 1) chNul) else (n, s)
  else (n, s)

/-- Exec of FMT (R76). -/
def doFmt (s : State) : State :=
  let p := s.projection
  let raw := rawText p
  let t := ((writeProjection s p).outBytes 0 raw).outByte raw.length chNul
  let (n, t) := canon raw.length (decide (p.s ≠ 1)) t
  { t with len := BitVec.ofNat 32 n, outptr := BitVec.ofNat 32 n }

/-- FMT (R76). -/
def execFmt (s : State) : Host.Outcome State Fault Refusal := .next (doFmt s)

end Sys2Proof.Machine
end

