-- ==== Sys2Proof/Machine/ParseArith.lean ====
section
/-! DEFINITION. Parse arithmetic (43_parse_arithmetic.md R79 to R88). Each `do<Command>` is the Exec body of a rule; the
command runs it alone and PARSE runs it as `Do(X)` (44_parser.md). Arithmetic is on natural numbers, narrowed at the end. -/

namespace Sys2Proof.Machine

/-- `trunc_32(x * 10 + d)`, the step of the three digit accumulators (R79, R81, R83, R85). -/
def timesTenPlus (x : Word) (d : Nat) : Word := BitVec.ofNat 32 (x.toNat * 10 + d)

/-- Exec of PCLR (R80). -/
def doPclr (s : State) : State :=
  { s with
    iacc := 0x00000000#32, icnt := 0x00000000#32, fval := 0x00000000#32, fscl := 0x00000001#32,
    expm := 0x00000000#32, pflags := 0x00000000#32, accHi := 0x00000000#32, accLo := 0x00000000#32 }

/-- PCLR (R80). -/
def execPclr (s : State) : Host.Outcome State Fault Refusal := .next (doPclr s)

/-- Exec of PIDIG (R81). -/
def doPidig (d : Nat) (s : State) : State :=
  { s with iacc := timesTenPlus s.iacc d, icnt := BitVec.ofNat 32 (s.icnt.toNat + 1) }

/-- PIDIG d (R81). -/
def execPidig (d : BitVec 4) (s : State) : Host.Outcome State Fault Refusal := .next (doPidig (argValue d) s)

/-- Exec of PSEED: ACC becomes IACC * 2^32, "that is `x[ACC_HI] <- x[IACC] ; x[ACC_LO] <- 0`" (R82). -/
def doPseed (s : State) : State := { s with accHi := s.iacc, accLo := 0x00000000#32 }

/-- PSEED (R82). -/
def execPseed (s : State) : Host.Outcome State Fault Refusal := .next (doPseed s)

/-- The cap on the accumulated decimal scale, 10^8 (R83). -/
def scaleCap : Nat := 100000000

/-- Exec of PFDIG (R83). -/
def doPfdig (d : Nat) (s : State) : State :=
  if s.fscl.toNat < scaleCap then
    { s with fscl := BitVec.ofNat 32 (s.fscl.toNat * 10), fval := timesTenPlus s.fval d }
  else s

/-- PFDIG d (R83). -/
def execPfdig (d : BitVec 4) (s : State) : Host.Outcome State Fault Refusal := .next (doPfdig (argValue d) s)

/-- Exec of PFCOMB (R84): the exact ratio, floor; FSCL = 0 raises DZ and leaves ACC unchanged. -/
def doPfcomb (s : State) : State :=
  if s.fscl.toNat = 0 then s.raise .dz
  else s.setAcc (BitVec.ofNat 64 (s.acc.toNat + s.fval.toNat * 2 ^ 32 / s.fscl.toNat))

/-- PFCOMB (R84). -/
def execPfcomb (s : State) : Host.Outcome State Fault Refusal := .next (doPfcomb s)

/-- Exec of PEDIG (R85). -/
def doPedig (d : Nat) (s : State) : State := { s with expm := timesTenPlus s.expm d }

/-- PEDIG d (R85). -/
def execPedig (d : BitVec 4) (s : State) : Host.Outcome State Fault Refusal := .next (doPedig (argValue d) s)

/-- One step of PEXP: divide by ten, floor, or multiply by ten modulo 2^64 (R86). -/
def tenStep (down : Bool) (a : Wide) : Wide :=
  if down then BitVec.ofNat 64 (a.toNat / 10) else BitVec.ofNat 64 (a.toNat * 10)

/-- `tenStep` repeated (R86). -/
def tenSteps (down : Bool) : Nat → Wide → Wide
  | 0, a => a
  | n + 1, a => tenSteps down n (tenStep down a)

/-- Exec of PEXP. It stops after min(EXPM, 64) steps, which R87 gives as making "no change to any result"
(log entry 12). -/
def doPexp (s : State) : State := s.setAcc (tenSteps (expNegFlag s.pflags) (min s.expm.toNat 64) s.acc)

/-- PEXP (R86). -/
def execPexp (s : State) : Host.Outcome State Fault Refusal := .next (doPexp s)

/-- The down-conversion of ACC before the sign (R88): shift right by 16, or by 32 with SHIFT, rounded as
DOWNCVT_ROUND says, on unbounded integers. -/
def downShift (r : DownRound) (sh : Bool) (a : Nat) : Nat :=
  let k := if sh then 32 else 16
  match r with
  | .truncate => a / 2 ^ k
  | .nearestUp => (a + 2 ^ (k - 1)) / 2 ^ k

/-- Two's-complement negation modulo 2^32 (R88). -/
def negate32 (r : Word) : Word := BitVec.ofNat 32 (2 ^ 32 - r.toNat)

/-- Exec of PDOWN (R88). -/
def doPdown (sh : Bool) (s : State) : State :=
  let r : Word := BitVec.ofNat 32 (downShift s.params.downcvtRound sh s.acc.toNat)
  { s with result := if negFlag s.pflags then negate32 r else r }

/-- PDOWN sh (R88). -/
def execPdown (sh : Bool) (s : State) : Host.Outcome State Fault Refusal := .next (doPdown sh s)

end Sys2Proof.Machine
end

