-- ==== Sys2Proof/Machine/Parser.lean ====
section
/-! DEFINITION. The parser (44_parser.md R89 to R93). The text index p is an unbounded natural number, as in the rule.

A scanning loop of R89 goes round only while T(p) is in a class that excludes 0x00, so at most once for each index below
TXT_LEN (R68); each loop here counts down from TXT_LEN, which is never reached first (log entry 16). -/

namespace Sys2Proof.Machine

/-- `while test(T(p)): p <- p + 1`. -/
def skipWhile (test : Byte → Bool) (s : State) : Nat → Nat → Nat
  | 0, p => p
  | n + 1, p => if test (s.textAt p) then skipWhile test s n (p + 1) else p

/-- Step 3: integer digits (R89). -/
def scanInteger : Nat → Nat → State → Nat × State
  | 0, p, s => (p, s)
  | n + 1, p, s =>
    if isDigit (s.textAt p) then scanInteger n (p + 1) (doPidig (digitValue (s.textAt p)) s) else (p, s)

/-- Step 6: fractional digits, up to the 10^8 cap (R89). -/
def scanFraction : Nat → Nat → State → Nat × State
  | 0, p, s => (p, s)
  | n + 1, p, s =>
    if isDigit (s.textAt p) && decide (s.fscl.toNat < scaleCap) then
      scanFraction n (p + 1) (doPfdig (digitValue (s.textAt p)) s)
    else (p, s)

/-- Step 7: exponent digits (R89). -/
def scanExponent : Nat → Nat → State → Nat × State
  | 0, p, s => (p, s)
  | n + 1, p, s =>
    if isDigit (s.textAt p) then scanExponent n (p + 1) (doPedig (digitValue (s.textAt p)) s) else (p, s)

/-- An optional sign at p: past '+', or past '-' with `onMinus` applied (R89, steps 2 and 7). -/
def takeSign (onMinus : State → State) (p : Nat) (s : State) : Nat × State :=
  if s.textAt p = chPlus then (p + 1, s)
  else if s.textAt p = chMinus then (p + 1, onMinus s)
  else (p, s)

/-- Step 6 of R89: the fraction. -/
def parseFraction (p : Nat) (s : State) : Nat × State :=
  if isSep s.params (s.textAt p) then
    let (p, s) := scanFraction s.params.txtLen (p + 1) s
    (p, doPfcomb s)
  else (p, s)

/-- Step 7 of R89: the exponent. A marker at `m` that no digit follows is given back when EXP_BACKTRACK = true. -/
def parseExponent (ae : Bool) (m : Nat) (s : State) : Nat × State :=
  if ae && isExpMark (s.textAt m) then
    let (p, s) := takeSign (fun s => { s with pflags := setExpNeg s.pflags }) (m + 1) s
    let (q, s) := scanExponent s.params.txtLen p s
    if q = p ∧ s.params.expBacktrack = true then (m, { s with pflags := clearExpNeg s.pflags })
    else (q, doPexp s)
  else (m, s)

/-- Exec of PARSE (R89). -/
def doParse (ae sh : Bool) (s : State) : State :=
  let s := doPclr s
  let fuel := s.params.txtLen
  let p := skipWhile (isSpace s.params) s fuel s.pstart.toNat
  let (p, s) := takeSign (fun s => { s with pflags := setNeg s.pflags }) p s
  let (p, s) := scanInteger fuel p s
  if s.icnt = 0x00000000#32 then
    { s with pend := BitVec.ofNat 32 p, result := 0x00000000#32 }
  else
    let (p, s) := parseFraction p (doPseed s)
    let (p, s) := parseExponent ae p s
    let p := skipWhile isDigit s fuel p
    doPdown sh { s with pend := BitVec.ofNat 32 p }

/-- PARSE ae, sh (R89). -/
def execParse (ae sh : Bool) (s : State) : Host.Outcome State Fault Refusal := .next (doParse ae sh s)

end Sys2Proof.Machine
end

