-- ==== Sys2Proof/Machine/Dispatch.lean ====
section
/-! DEFINITION. `Exec(cmd, S)` (40_datapath.md R66, R67): one arm for each command, each one call of its meaning. -/

namespace Sys2Proof.Machine

def exec (i : Instr) (s : State) : Host.Outcome State Fault Refusal :=
  match i with
  | .nop => Sys2Proof.Machine.execNop s
  | .emit e skip => Sys2Proof.Machine.execEmit e skip s
  | .fproj => Sys2Proof.Machine.execFproj s
  | .fmt => Sys2Proof.Machine.execFmt s
  | .pclr => Sys2Proof.Machine.execPclr s
  | .pidig d => Sys2Proof.Machine.execPidig d s
  | .pseed => Sys2Proof.Machine.execPseed s
  | .pfdig d => Sys2Proof.Machine.execPfdig d s
  | .pfcomb => Sys2Proof.Machine.execPfcomb s
  | .pedig d => Sys2Proof.Machine.execPedig d s
  | .pexp => Sys2Proof.Machine.execPexp s
  | .pdown sh => Sys2Proof.Machine.execPdown sh s
  | .parse ae sh => Sys2Proof.Machine.execParse ae sh s

end Sys2Proof.Machine
end

