-- ==== Sys2Proof/Machine/Port.lean ====
section
/-! DEFINITION. The host port (20_memory.md): the address map, reads and writes, reset, and what one host step does. -/

namespace Sys2Proof.Machine

/-! ### Address map (R16, R44) -/

/-- Every register, in the order of R16. -/
def Reg.all : List Reg :=
  [.ctrl, .status, .id, .value, .digits, .evalReg, .outptr, .len, .fsign, .fint, .ffrac, .fscale,
    .pstart, .pend, .result, .pflags, .iacc, .icnt, .fval, .fscl, .expm, .accLo, .accHi,
    .scaleTbl 0, .scaleTbl 1, .scaleTbl 2, .scaleTbl 3, .scaleTbl 4, .scaleTbl 5, .scaleTbl 6, .scaleTbl 7]

/-- The offset of a register (R16). -/
def Reg.offset : Reg → Nat
  | .ctrl => 0x000
  | .status => 0x004
  | .id => 0x008
  | .value => 0x010
  | .digits => 0x014
  | .evalReg => 0x018
  | .outptr => 0x01C
  | .len => 0x020
  | .fsign => 0x024
  | .fint => 0x028
  | .ffrac => 0x02C
  | .fscale => 0x030
  | .pstart => 0x040
  | .pend => 0x044
  | .result => 0x048
  | .pflags => 0x04C
  | .iacc => 0x050
  | .icnt => 0x054
  | .fval => 0x058
  | .fscl => 0x05C
  | .expm => 0x060
  | .accLo => 0x064
  | .accHi => 0x068
  | .scaleTbl k => 0x080 + 4 * k.val

/-- What an offset of the window names. -/
inductive Target where
  | reg (r : Reg)
  /-- The word of a buffer window that starts at this offset. -/
  | buf (a : Nat)
  deriving DecidableEq, Repr

/-- The register or buffer word at an offset; `none` for a misaligned or reserved one (R41, R44, R47). -/
def targetOf (p : Params) (off : Offset) : Option Target :=
  let a := off.toNat
  if a % 4 = 0 then
    if a < 0x100 then (Reg.all.find? (fun r => r.offset == a)).map .reg
    else if inOut p a || inTxt p a then some (.buf a)
    else none
  else none

/-- The window offset of a host address, if it lies in the window at BASE (R43, R44). -/
def windowOffset (addr : Nat) : Option Offset :=
  if Config.base ≤ addr ∧ addr < Config.base + 4096 then some (BitVec.ofNat 12 (addr - Config.base)) else none

/-! ### Host reads (R41) -/

namespace State

/-- Append a response to the transcript. -/
def respond (s : State) (r : Response) : State := { s with responses := r :: s.responses }

/-- Advance the counter of free values. -/
def drawn (s : State) : State := { s with draws := s.draws + 1 }

/-- What a target answers while idle (R41 item 3). -/
def readTarget (s : State) : Target → Word
  | .reg r => s.readReg r
  | .buf a => s.loadWord a

/-- `MemRead(BASE + off, 4)` (R41). -/
def hostRead (s : State) (off : Offset) : State :=
  match targetOf s.params off with
  | none => s.drawn.respond (.readError (Config.errorRead s.draws))
  | some t =>
    if s.flag .busy && !(t == .reg .status) then s.drawn.respond (.readOk (Config.busyRead s.draws))
    else s.respond (.readOk (s.readTarget t))

/-! ### Host writes (R42) -/

/-- The effect of an accepted write on a register while idle (R16 to R19, R30, R66). -/
def writeReg (s : State) (v : Word) : Reg → State
  | .ctrl => (s.deliver v (Config.extraCycles s.draws)).drawn
  | .status => { s with status := w1cWrite s.status v }
  | .id => s
  | .value => { s with value := v }
  | .digits => { s with digits := v }
  | .evalReg => { s with evalReg := v }
  | .outptr => { s with outptr := v }
  | .len => s
  | .fsign => s
  | .fint => s
  | .ffrac => s
  | .fscale => s
  | .pstart => { s with pstart := v }
  | .pend => s
  | .result => s
  | .pflags => { s with pflags := v &&& pflagsMask }
  | .iacc => { s with iacc := v }
  | .icnt => { s with icnt := v }
  | .fval => { s with fval := v }
  | .fscl => { s with fscl := v }
  | .expm => { s with expm := v }
  | .accLo => { s with accLo := v }
  | .accHi => { s with accHi := v }
  | .scaleTbl _ => s

/-- The effect of an accepted write on its target while idle (R42 item 3). -/
def writeTarget (s : State) (v : Word) : Target → State
  | .reg r => s.writeReg v r
  | .buf a => s.storeWord a v

/-- `MemWrite(BASE + off, 4, v)` with strobes (R42, R45, R97). -/
def hostWrite (s : State) (off : Offset) (strb : Strobes) (v : Word) : State :=
  match targetOf s.params off with
  | none => s.respond .writeError
  | some t =>
    if strb != 0xF#4 then s.respond .writeError
    else if s.flag .busy then (s.raise .wbusy).respond .writeOk
    else (s.writeTarget v t).respond .writeOk

/-! ### Reset and the host's step (R13, R113) -/

/-- Reset (R113, R114): every register and the sequencer at reset, the buffers unspecified again. The parameters, the
host's pending operations, the transcript and the draw counter are not FXDP's and stay. -/
def afterReset (s : State) : State :=
  { State.reset with
    params := s.params, inbox := s.inbox, responses := s.responses, draws := s.draws, resets := s.resets + 1 }

/-- One poll of the WAIT loop (R59): read STATUS; while it shows BUSY = 1 the loop goes round. -/
def pollStatus (s : State) : State :=
  let t := s.hostRead (BitVec.ofNat 12 Reg.status.offset)
  if s.flag .busy then { t with inbox := .wait :: t.inbox } else t

/-- What a host operation does (R13). -/
def hostOp (s : State) : HostOp → State
  | .rd off => s.hostRead off
  | .wr off strb v => s.hostWrite off strb v
  | .wait => s.pollStatus
  | .idle => s
  | .reset => s.afterReset

/-- One host step passes for a running command (R66 item 4, R120). -/
def tick (s : State) : State :=
  { s with inFlight := s.inFlight.map (fun f => { f with left := f.left - 1 }) }

/-- One host step: the oldest pending operation, or nothing if there is none (R112: an idle FXDP keeps its state). -/
def hostStep (s : State) : State :=
  match s.inbox with
  | [] => s.tick
  | op :: rest => ({ s with inbox := rest }.tick).hostOp op

/-- `s` with a command word placed where the next step takes its command from: accepted and due to complete, or, if it
is illegal, as the host's next write to an idle CTRL (log entry 8). -/
def placeCommand (s : State) (w : Word) : State :=
  match decode w with
  | .ok _ => s.deliver w 0
  | .error _ =>
    { s with
      status := clearFlag s.status .busy, inFlight := none,
      inbox := .wr (BitVec.ofNat 12 Reg.ctrl.offset) 0xF#4 w :: s.inbox }

end State

/-- `MemRead(addr, 4)` at a host address, where the address lies in the window (R10, R41, R43). -/
def hostMemRead (addr : Nat) : Option HostOp := (windowOffset addr).map .rd

/-- `MemWrite(addr, 4, v)` at a host address, where the address lies in the window (R10, R42, R43). -/
def hostMemWrite (addr : Nat) (v : Word) : Option HostOp := (windowOffset addr).map (fun off => .wr off 0xF#4 v)

/-! ### The spec's pseudo-instructions, as host operations (R58, R59) -/

/-- `WR REG, v`. -/
def hostWR (r : Reg) (v : Word) : HostOp := .wr (BitVec.ofNat 12 r.offset) 0xF#4 v

/-- `RD REG`. -/
def hostRD (r : Reg) : HostOp := .rd (BitVec.ofNat 12 r.offset)

/-- `DO c`. -/
def hostDO (c : Instr) : List HostOp := [hostWR .ctrl (encode c), .wait]

/-- `FORMAT v, d`. -/
def hostFORMAT (v d : Word) : List HostOp := [hostWR .value v, hostWR .digits d] ++ hostDO .fmt

/-- `PARSEAT i, ae, sh`. -/
def hostPARSEAT (i : Word) (ae sh : Bool) : List HostOp := [hostWR .pstart i] ++ hostDO (.parse ae sh)

/-- `CLRSTAT`. -/
def hostCLRSTAT : HostOp := hostWR .status 0x0000007E#32

/-- The offset of `OUT+4j` or `TXT+4j`, the buffer's base being given (R58). DESIGN CHOICE (log entry 23): the spec states no
bound on j, and an address past the window's end is, as for `hostMemWrite`, no access to FXDP. -/
def bufferOffset (base j : Nat) : Option Offset :=
  if base + 4 * j < 4096 then some (BitVec.ofNat 12 (base + 4 * j)) else none

/-- `WR OUT+4j, w` or `WR TXT+4j, w` (log entry 23). -/
def hostWRBuffer (base j : Nat) (w : Word) : Option HostOp := (bufferOffset base j).map (fun off => .wr off 0xF#4 w)

/-- `RD OUT+4j` or `RD TXT+4j` (log entry 23). -/
def hostRDBuffer (base j : Nat) : Option HostOp := (bufferOffset base j).map .rd

/-- `PUTS j, w`, that is `WR TXT+4j, w`; none for j of 512 or more (log entry 23). -/
def hostPUTS (j : Nat) (w : Word) : Option HostOp := hostWRBuffer txtBase j w

end Sys2Proof.Machine
end

