-- ==== Sys2Proof/Machine/Step.lean ====
section
/-! DEFINITION. One step of FXDP (10_state.md R13, 40_datapath.md R66): the sequencer completes the running command when
it is due, and otherwise the host acts. -/

namespace Sys2Proof.Machine

/-- One step. A command that is due completes: Exec and the completion in one atomic update (R66 item 4). In every other
state it is the host's turn (R13); how many host steps a command waits is a free value (log entries 5 and 6). -/
def step (s : State) : Host.Outcome State Fault Refusal :=
  match s.inFlight with
  | some ⟨cmd, 0⟩ =>
    match decode cmd with
    | .ok i => completing (exec i s)
    | .error _ => .fault .latchedIllegal
  | _ => .next s.hostStep

/-- `s` with the command word `w` placed where the next step takes its command from (log entry 8). The bits from `nbits`
up are 0; a command is one 32-bit word. -/
def State.withFetchWord (s : State) (nbits w : Nat) : State :=
  s.placeCommand (BitVec.ofNat 32 (w % 2 ^ nbits))

end Sys2Proof.Machine
end

