-- ==== Sys2Proof/Safety.lean ====
section
/-! DEFINITION. The vocabulary claims are stated in: the invariants of a run, the host's view of a step, and what a decimal
text says. Nothing here is used by the machine. -/

namespace Sys2Proof.Machine

/-! ### Words and bits -/

/-- Two words agree in every bit that is not listed. -/
def SameBitsExcept (a b : Word) (ks : List Nat) : Prop := ∀ k, k < 32 → k ∉ ks → a.getLsbD k = b.getLsbD k

/-! ### The host's view of a step -/

/-- The running command, if any, is due: the next step completes it. -/
def State.due (s : State) : Bool :=
  match s.inFlight with
  | some ⟨_, 0⟩ => true
  | _ => false

/-- The sequencer after a host step: one step less to wait. -/
def passes (f : Option InFlight) : Option InFlight := f.map (fun x => ⟨x.cmd, x.left - 1⟩)

/-- The register offsets of R16, written out. -/
def registerOffsets : List Nat :=
  [0x000, 0x004, 0x008, 0x010, 0x014, 0x018, 0x01C, 0x020, 0x024, 0x028, 0x02C, 0x030, 0x040, 0x044, 0x048, 0x04C,
    0x050, 0x054, 0x058, 0x05C, 0x060, 0x064, 0x068, 0x080, 0x084, 0x088, 0x08C, 0x090, 0x094, 0x098, 0x09C]

/-- The registers of R16 with their offsets, row by row. -/
def registerMap : List (Reg × Nat) :=
  [(.ctrl, 0x000), (.status, 0x004), (.id, 0x008), (.value, 0x010), (.digits, 0x014), (.evalReg, 0x018),
    (.outptr, 0x01C), (.len, 0x020), (.fsign, 0x024), (.fint, 0x028), (.ffrac, 0x02C), (.fscale, 0x030),
    (.pstart, 0x040), (.pend, 0x044), (.result, 0x048), (.pflags, 0x04C), (.iacc, 0x050), (.icnt, 0x054),
    (.fval, 0x058), (.fscl, 0x05C), (.expm, 0x060), (.accLo, 0x064), (.accHi, 0x068),
    (.scaleTbl 0, 0x080), (.scaleTbl 1, 0x084), (.scaleTbl 2, 0x088), (.scaleTbl 3, 0x08C),
    (.scaleTbl 4, 0x090), (.scaleTbl 5, 0x094), (.scaleTbl 6, 0x098), (.scaleTbl 7, 0x09C)]

/-- An aligned offset that is not reserved: a register of R16, or inside 0x100 .. 0x100 + OUT_LEN - 1 or
0x800 .. 0x800 + TXT_LEN - 1 (R41, R44). -/
def LegalOffset (p : Params) (a : Nat) : Prop :=
  a % 4 = 0 ∧ (a ∈ registerOffsets ∨ (0x100 ≤ a ∧ a < 0x100 + p.outLen) ∨ (0x800 ≤ a ∧ a < 0x800 + p.txtLen))

/-- `t` is `s` but for the port side: STATUS, the sequencer's latch, the pending operations, the transcript and the
draw counter. All other registers, the buffers, the parameters and the reset count are the same. -/
def SameButPort (s t : State) : Prop :=
  t = { s with
    status := t.status, inFlight := t.inFlight, inbox := t.inbox, responses := t.responses, draws := t.draws }

/-! ### Invariants -/

/-- What every step keeps: legal parameters, the memory in canonical form and inside the two windows, reserved bits 0,
and BUSY exactly while a legal command, the word in CTRL, is latched, with DONE 0 meanwhile. -/
structure State.Inv (s : State) : Prop where
  params_wf : s.params.wf = true
  mem_wf : Memory.wf s.mem
  mem_in_windows : ∀ c ∈ s.mem, inOut s.params c.1 = true ∨ inTxt s.params c.1 = true
  status_reserved : ∀ k, 7 ≤ k → s.status.getLsbD k = false
  pflags_reserved : ∀ k, 2 ≤ k → s.pflags.getLsbD k = false
  busy_iff_latched : s.flag .busy = s.inFlight.isSome
  latched_legal : ∀ f, s.inFlight = some f → ∃ i, decode f.cmd = .ok i
  latched_in_ctrl : ∀ f, s.inFlight = some f → s.ctrl = f.cmd
  busy_not_done : s.flag .busy = true → s.flag .done = false

/-- The ranges of the formatter's results (R26, R78 (d)), which hold from reset on. -/
structure State.ResultRanges (s : State) : Prop where
  fsign_bit : s.fsign.toNat ≤ 1
  fint_range : s.fint.toNat ≤ 32768
  fraction_range : (s.fscale.toNat = 0 ∧ s.ffrac.toNat = 0) ∨
    (s.fscale.toNat ∈ [1, 10, 100, 1000, 10000, 100000] ∧ s.ffrac.toNat < s.fscale.toNat)
  len_range : s.len.toNat ≤ 12

/-! ### Decimal text -/

/-- The decimal digits of a number as ASCII bytes, most significant first, "0" for 0. -/
def decimalText (n : Nat) : List Byte :=
  (if n = 0 then [0] else (Nat.digits 10 n).reverse).map digitByte

/-- The decimal digits of a number, padded with '0' on the left to `k` bytes. -/
def paddedText (n k : Nat) : List Byte :=
  List.replicate (k - (decimalText n).length) chZero ++ decimalText n

/-- The minimal text of sign, integer part and `k` fraction digits `f`: trailing '0's of the fraction dropped, and the
'.' with them when none is left (R76, R77). -/
def canonicalText (neg : Bool) (ip f k : Nat) : List Byte :=
  let frac := if k = 0 then [] else (paddedText f k).rdropWhile (· == chZero)
  (if neg then [chMinus] else []) ++ decimalText ip ++ (if frac = [] then [] else chDot :: frac)

/-- The number a run of decimal digits writes. -/
def decimalValue (ds : List (Fin 10)) : Nat := ds.foldl (fun a d => 10 * a + d.val) 0

/-- The bytes of a run of decimal digits. -/
def digitBytes (ds : List (Fin 10)) : List Byte := ds.map (fun d => digitByte d.val)

/-- The bytes of an optional sign, `some true` being '-'. -/
def signBytes : Option Bool → List Byte
  | none => []
  | some false => [chPlus]
  | some true => [chMinus]

/-- A number text as PARSE consumes it (R91; a marker given back, R89 step 7, is not part of it): whitespace, an optional sign, integer digits, an optional separator with
fraction digits, an optional exponent marker with an optional sign and digits, and a final run of digits that are
consumed and ignored. -/
structure NumText where
  ws : List Byte
  sign : Option Bool
  ints : List (Fin 10)
  frac : Option (Byte × List (Fin 10))
  exp : Option (Byte × Option Bool × List (Fin 10))
  extra : List (Fin 10)
  deriving DecidableEq, Repr

namespace NumText

/-- The bytes of the fraction. -/
def fracBytes (x : NumText) : List Byte :=
  match x.frac with
  | none => []
  | some (sep, ds) => sep :: digitBytes ds

/-- The bytes of the exponent. -/
def expBytes (x : NumText) : List Byte :=
  match x.exp with
  | none => []
  | some (mark, sg, ds) => mark :: (signBytes sg ++ digitBytes ds)

/-- The whole text. -/
def bytes (x : NumText) : List Byte :=
  x.ws ++ signBytes x.sign ++ digitBytes x.ints ++ x.fracBytes ++ x.expBytes ++ digitBytes x.extra

/-- The fraction digits, none if there is no fraction. -/
def fracDigits (x : NumText) : List (Fin 10) := (x.frac.map (·.2)).getD []

/-- The exponent digits, none if there is no exponent. -/
def expDigits (x : NumText) : List (Fin 10) := (x.exp.map (·.2.2)).getD []

/-- The exponent has a '-'. -/
def expNeg (x : NumText) : Bool := decide ((x.exp.map (·.2.1)).getD none = some true)

/-- A text of the grammar of R91 with at least one integer digit: at most 8 fraction digits; an exponent only where the
AEXP option `ae` is set, with digits unless EXP_BACKTRACK = false (R90); a final run only after 8 fraction digits and no
exponent. -/
def ok (x : NumText) (p : Params) (ae : Bool) : Bool :=
  x.ws.all (isSpace p) && !x.ints.isEmpty
    && (match x.frac with
        | none => true
        | some (sep, ds) => isSep p sep && decide (ds.length ≤ 8))
    && (match x.exp with
        | none => true
        | some (mark, _, ds) => ae && isExpMark mark && (!ds.isEmpty || !p.expBacktrack))
    && (x.extra.isEmpty || (decide (x.fracDigits.length = 8) && x.exp.isNone))

/-- No exponent digit follows an exponent marker: `next` gives the bytes from the marker on, and neither the byte after it
nor, if that is a sign, the one after the sign is a digit (R89 step 7). -/
def noExponentDigit (next : Nat → Byte) : Bool :=
  !isDigit (next 1) && !((next 1 == chPlus || next 1 == chMinus) && isDigit (next 2))

/-- PARSE consumes no more of the text than `x`, `next` being the bytes from its end on: the next byte is no digit; no separator
if the text has no fraction and no exponent; no exponent marker where one would be recognised, but for one that
EXP_BACKTRACK = true gives back because no exponent digit follows it; no sign right after an exponent marker. -/
def stopsAt (x : NumText) (p : Params) (ae : Bool) (next : Nat → Byte) : Bool :=
  !isDigit (next 0) && (x.frac.isSome || x.exp.isSome || !isSep p (next 0))
    && (x.exp.isSome || !x.extra.isEmpty || !ae || !isExpMark (next 0) || (p.expBacktrack && noExponentDigit next))
    && (match x.exp with
        | some (_, none, []) => next 0 != chPlus && next 0 != chMinus
        | _ => true)

/-- ACC when the text has been read (R92): the integer part and the exact ratio, scaled by the exponent. -/
def accValue (x : NumText) : Nat :=
  let a0 := decimalValue x.ints % 2 ^ 32 * 2 ^ 32
    + decimalValue x.fracDigits * 2 ^ 32 / 10 ^ x.fracDigits.length
  let n := decimalValue x.expDigits % 2 ^ 32
  if x.expNeg then a0 / 10 ^ n else a0 * 10 ^ n % 2 ^ 64

/-- RESULT for the text (R92): ACC shifted down as DOWNCVT_ROUND and SHIFT say, narrowed, and negated after a '-'. -/
def resultValue (x : NumText) (r : DownRound) (sh : Bool) : Word :=
  let k := if sh then 32 else 16
  let t := match r with
    | .truncate => x.accValue / 2 ^ k
    | .nearestUp => (x.accValue + 2 ^ (k - 1)) / 2 ^ k
  if x.sign = some true then -BitVec.ofNat 32 t else BitVec.ofNat 32 t

end NumText

/-- The text bytes of `s` from index `p` on. -/
def State.textFrom (s : State) (p : Nat) : Nat → Byte := fun k => s.textAt (p + k)

/-- The text bytes of `s` from index `p` begin with `bs`. -/
def TextAt (s : State) (p : Nat) (bs : List Byte) : Prop := ∀ j c, bs[j]? = some c → s.textAt (p + j) = c

/-! ### Sequences of commands -/

/-- Exec of each command in turn. -/
def runAll : List Instr → State → Option State
  | [], s => some s
  | i :: is, s =>
    match exec i s with
    | .next t => runAll is t
    | _ => none

/-- One command for each digit. -/
def perDigit (c : BitVec 4 → Instr) (ds : List (Fin 10)) : List Instr := ds.map (fun d => c (BitVec.ofNat 4 d.val))

end Sys2Proof.Machine
end

