-- ==== Sys2Proof/Certificates/Slice0/Obligations.lean ====
section
/-! DEFINITION. The statements for the provers, in the order of the spec: encoding, the command cycle, the host port,
reset, whole-machine rules, then the commands family by family. -/

open Sys2Proof Sys2Proof.Machine

/-! ### Encoding (30_encoding.md) -/

/-- Decoding the word of any well-formed command gives the command back: no field is dropped (R54, R55, R58). -/
def Obligations.DecodeOfEncode : Prop := ∀ i : Instr, i.wf = true → decode (encode i) = .ok i

/-- A word that decodes is the word of the command it decodes to, which is well-formed: every legal word is exactly one
command (R57). -/
def Obligations.EncodeOfDecode : Prop :=
  ∀ (w : Word) (i : Instr), decode w = .ok i → i.wf = true ∧ encode i = w

/-- The decoder, written from the fields of R54, accepts exactly the words that R57 calls legal by the match and mask rows
of R56; two rows never select one word, and the selected row is that of the decoded command; any other word written to
CTRL while idle is not executed and raises ILL. -/
def Obligations.LegalIffSelectsOneRow : Prop :=
  (∀ w : Word, (∃ i, decode w = .ok i) ↔ legalByRows w = true) ∧
  opcodeRows.Pairwise (fun r q => ∀ w : Word, ¬ (r.selects w = true ∧ q.selects w = true)) ∧
  (∀ (w : Word) (i : Instr) (r : OpcodeRow),
    decode w = .ok i → r ∈ opcodeRows → r.selects w = true → r.mnemonic = i.mnemonic) ∧
  (∀ (s : State) (w : Word), s.flag .busy = false → (∀ i, decode w ≠ .ok i) →
    (s.writeReg w .ctrl).flag .ill = true ∧ (s.writeReg w .ctrl).flag .busy = false ∧
    (s.writeReg w .ctrl).inFlight = s.inFlight)

/-- The words of 95_test_vectors.md section 2.1 decode as its table says. -/
def Obligations.SpecWordsDecode : Prop :=
  decode 0x00000000#32 = .ok .nop ∧ decode 0x00000001#32 = .ok (.emit 0 false) ∧
  decode 0x00001401#32 = .ok (.emit 4 true) ∧ decode 0x00001901#32 = .ok (.emit 9 true) ∧
  decode 0x00000905#32 = .ok (.pidig 9) ∧ decode 0x00000907#32 = .ok (.pfdig 9) ∧
  decode 0x00000909#32 = .ok (.pedig 9) ∧ decode 0x0000400B#32 = .ok (.pdown true) ∧
  decode 0x0000600C#32 = .ok (.parse true true) ∧
  (∀ w ∈ [0x00001A01#32, 0x00000A01#32, 0x00000011#32, 0x00000102#32, 0x00002003#32, 0x00000A05#32, 0x00001005#32,
      0x0000200B#32, 0x0000100C#32, 0x0000800C#32, 0x0006000C#32, 0x0000000D#32, 0x0000000E#32, 0x0000000F#32,
      0x00002000#32, 0x00004000#32, 0x80000000#32], ∀ i, decode w ≠ .ok i)

/-! ### The command cycle (40_datapath.md R66 to R68) -/

/-- A command that is due runs: the step is Exec of the command its latched word decodes to, with the completion around
it, and stops only where Exec stops. -/
def Obligations.StepRunsLatchedCommand : Prop :=
  ∀ (s : State) (w : Word) (i : Instr), s.inFlight = some ⟨w, 0⟩ → decode w = .ok i →
    step s = completing (exec i s) ∧ ∀ t, exec i s = .next t → step s = .next t.complete

/-- Completion (R66 item 4): after Exec's own writes BUSY is 0, DONE is 1, no command is latched, and nothing else of
Exec's state changes. -/
def Obligations.CompletionSetsDone : Prop :=
  ∀ (s : State) (w : Word) (i : Instr) (t : State), s.inFlight = some ⟨w, 0⟩ → decode w = .ok i → exec i s = .next t →
    ∃ st, step s = .next { t with status := st, inFlight := none } ∧
      st.getLsbD 0 = false ∧ st.getLsbD 1 = true ∧ SameBitsExcept st t.status [0, 1]

/-- A legal word written to CTRL while idle (R66 items 1 and 3): CTRL takes it, DONE falls, BUSY rises, the word is
latched with the drawn number of host steps to wait, and nothing else of FXDP changes. -/
def Obligations.CtrlWriteAcceptsLegalWord : Prop :=
  ∀ (s : State) (w : Word) (rest : List HostOp), s.inFlight = none → s.flag .busy = false → legalByRows w = true →
    s.inbox = .wr 0x000#12 0xF#4 w :: rest →
    ∃ st, step s = .next { s with
        ctrl := w, status := st, inFlight := some ⟨w, Config.extraCycles s.draws⟩, inbox := rest,
        responses := .writeOk :: s.responses, draws := s.draws + 1 } ∧
      st.getLsbD 0 = true ∧ st.getLsbD 1 = false ∧ SameBitsExcept st s.status [0, 1]

/-- An illegal word written to CTRL while idle (R96): CTRL takes it, DONE falls, ILL rises, and nothing else of FXDP
changes; a word is illegal when it selects no row of R56 or its row uses ARG and ARG is above 9. -/
def Obligations.CtrlWriteRejectsIllegalWord : Prop :=
  (∀ (s : State) (w : Word) (rest : List HostOp), s.inFlight = none → s.flag .busy = false → legalByRows w = false →
    s.inbox = .wr 0x000#12 0xF#4 w :: rest →
    ∃ st, step s = .next { s with
        ctrl := w, status := st, inbox := rest, responses := .writeOk :: s.responses, draws := s.draws + 1 } ∧
      st.getLsbD 1 = false ∧ st.getLsbD 2 = true ∧ SameBitsExcept st s.status [1, 2]) ∧
  (∀ w : Word, 0xD ≤ w.toNat % 16 → legalByRows w = false) ∧
  (∀ w : Word, w.toNat % 16 ∈ [0x1, 0x5, 0x7, 0x9] → 9 < w.toNat / 256 % 16 → legalByRows w = false) ∧
  (∀ (w : Word) (r : OpcodeRow), r ∈ opcodeRows → w.toNat % 16 = r.matchBits.toNat % 16 → w &&& r.mask ≠ r.matchBits →
    legalByRows w = false)

/-- While a command runs and is not due, a host step that is no reset changes only the port side, and of STATUS only
WBUSY, which it may set (R49 item 2, R97): nothing of the command is visible yet. -/
def Obligations.BusyHostStepsTouchOnlyWbusy : Prop :=
  ∀ (s : State) (w : Word) (n : Nat), s.inFlight = some ⟨w, n + 1⟩ → s.flag .busy = true →
    s.inbox.head? ≠ some .reset →
    ∃ t, step s = .next t ∧ SameButPort s t ∧ t.inFlight = some ⟨w, n⟩ ∧
      SameBitsExcept t.status s.status [3] ∧ (s.flag .wbusy = true → t.flag .wbusy = true)

/-- Exec does not look at the port side: from two states that differ only there, every command writes the same registers
and bytes, and raises the same flags on top of what STATUS held (R67, R101: no flag changes a computed value). -/
def Obligations.ExecIgnoresThePort : Prop :=
  ∀ (i : Instr) (s s' : State), SameButPort s s' →
    ∃ t t', exec i s = .next t ∧ exec i s' = .next t' ∧ SameButPort t t' ∧
      t'.inFlight = s'.inFlight ∧ t'.inbox = s'.inbox ∧ t'.responses = s'.responses ∧ t'.draws = s'.draws ∧
      (∀ k, s.status.getLsbD k = s'.status.getLsbD k → t.status.getLsbD k = t'.status.getLsbD k) ∧
      (∀ k, s.status.getLsbD k = false → t.status.getLsbD k = true → t'.status.getLsbD k = true)

/-- Whatever the host does meanwhile, short of a reset, an accepted command completes after its host steps, and what it
leaves is Exec of the state at acceptance (R49 items 2 and 3, R66 item 4, R68): every register and byte is Exec's, BUSY
is 0, DONE is 1, and the flags are Exec's but for a WBUSY that the host's own writes set. -/
def Obligations.CommandComputesFromAcceptance : Prop :=
  ∀ (n : Nat) (s : State) (w : Word) (i : Instr), s.inFlight = some ⟨w, n⟩ → s.flag .busy = true → decode w = .ok i →
    HostOp.reset ∉ s.inbox →
    ∃ u t, exec i s = .next u ∧ Host.Core.run core (n + 1) s = .next t ∧
      SameButPort u t ∧ t.inFlight = none ∧ t.flag .busy = false ∧ t.flag .done = true ∧
      SameBitsExcept t.status u.status [0, 1, 3] ∧ (u.flag .wbusy = true → t.flag .wbusy = true)

/-- The pseudo-instruction WAIT ends (R59, R68): the host's loop on STATUS, begun while a command runs, is over once the
command has completed, and its last read shows BUSY = 0 and DONE = 1. (WAIT as one pending host operation is the model's
own form, log entry 7.) -/
def Obligations.WaitEndsWhenCommandCompletes : Prop :=
  ∀ (n : Nat) (s : State) (w : Word) (i : Instr) (rest : List HostOp), s.inFlight = some ⟨w, n⟩ → s.flag .busy = true →
    decode w = .ok i → s.inbox = .wait :: rest →
    ∃ t v, Host.Core.run core (n + 2) s = .next t ∧ t.inbox = rest ∧ t.inFlight = none ∧
      t.responses.head? = some (.readOk v) ∧ v = t.status ∧ v.getLsbD 0 = false ∧ v.getLsbD 1 = true

/-! ### The host port (20_memory.md) -/

/-- The window at BASE (R8, R43, R44): BASE is 4 KiB-aligned, a host address names offset `off` exactly when it is
BASE + off, and no other address is FXDP's. -/
def Obligations.WindowAtBase : Prop :=
  Config.base % 4096 = 0 ∧ (∀ off : Offset, windowOffset (Config.base + off.toNat) = some off) ∧
  (∀ (a : Nat) (off : Offset), windowOffset a = some off → a = Config.base + off.toNat) ∧
  (∀ a : Nat, a < Config.base ∨ Config.base + 4096 ≤ a → windowOffset a = none)

/-- The address map (R16, R44): an offset names something exactly when it is aligned and not reserved; each register stands
at its own offset of R16 and is what that offset names; a legal offset from 0x100 on names the buffer word there. -/
def Obligations.AddressMap : Prop :=
  (∀ (p : Params) (off : Offset), (targetOf p off).isSome = true ↔ LegalOffset p off.toNat) ∧
  (∀ (p : Params) (r : Reg), targetOf p (BitVec.ofNat 12 r.offset) = some (.reg r)) ∧
  (∀ (r : Reg) (a : Nat), (r, a) ∈ registerMap ↔ r.offset = a) ∧ registerMap.map Prod.snd = registerOffsets ∧
  (∀ r q : Reg, r.offset = q.offset → r = q) ∧
  (∀ (p : Params) (off : Offset), LegalOffset p off.toNat → 0x100 ≤ off.toNat → targetOf p off = some (.buf off.toNat))

/-- An access that gets the ERROR response has no effect on FXDP, busy or idle (R45): STATUS is unchanged, WBUSY
included. (The pending operations, the transcript, the draw counter and the passing of one host step are the model's.) -/
def Obligations.BadAccessHasNoEffect : Prop :=
  ∀ (s : State) (rest : List HostOp), s.due = false →
    (∀ off, s.inbox = .rd off :: rest → ¬ LegalOffset s.params off.toNat →
      ∃ v d, step s = .next { s with
        inbox := rest, inFlight := passes s.inFlight, responses := .readError v :: s.responses, draws := d }) ∧
    (∀ off strb v, s.inbox = .wr off strb v :: rest → ¬ LegalOffset s.params off.toNat ∨ strb ≠ 0xF#4 →
      step s = .next { s with
        inbox := rest, inFlight := passes s.inFlight, responses := .writeError :: s.responses })

/-- Host reads (R41): ERROR at a misaligned or reserved offset; an unspecified value while BUSY except at STATUS; else the
register at the offset, or the four bytes of the buffer word. No read changes FXDP's state. -/
def Obligations.HostReadAnswers : Prop :=
  ∀ (s : State) (off : Offset) (rest : List HostOp), s.due = false → s.inbox = .rd off :: rest →
    ∃ r d, step s = .next { s with
        inbox := rest, inFlight := passes s.inFlight, responses := r :: s.responses, draws := d } ∧
      (¬ LegalOffset s.params off.toNat → ∃ v, r = .readError v) ∧
      (LegalOffset s.params off.toNat → s.flag .busy = true → off.toNat ≠ 4 → ∃ v, r = .readOk v) ∧
      (LegalOffset s.params off.toNat → s.flag .busy = false ∨ off.toNat = 4 →
        (∀ g : Reg, off.toNat = g.offset → r = .readOk (s.readReg g)) ∧
        (0x100 ≤ off.toNat → ∃ v, r = .readOk v ∧ ∀ k < 4, v.extractLsb' (8 * k) 8 = s.byteAt (off.toNat + k)))

/-- A write at a legal offset with full strobes while BUSY = 1 is dropped and sets WBUSY, whatever it aims at (R97). -/
def Obligations.BusyWriteIsDropped : Prop :=
  ∀ (s : State) (off : Offset) (v : Word) (rest : List HostOp), s.due = false → s.flag .busy = true →
    LegalOffset s.params off.toNat → s.inbox = .wr off 0xF#4 v :: rest →
    ∃ st, step s = .next { s with
        status := st, inbox := rest, inFlight := passes s.inFlight, responses := .writeOk :: s.responses } ∧
      st.getLsbD 3 = true ∧ SameBitsExcept st s.status [3]

/-- Register access rights while idle (R17): a write to a RO register gets OK and changes nothing; a write to a RW register
stores all 32 bits, in PFLAGS bits 1:0 only; every other register and the buffers keep their value. Where the invariant
holds, the reserved bits of PFLAGS and STATUS read 0, and writes leave them so. -/
def Obligations.RegisterWriteRights : Prop :=
  (∀ (s : State) (g : Reg) (v : Word) (rest : List HostOp), s.inFlight = none → s.flag .busy = false →
    s.inbox = .wr (BitVec.ofNat 12 g.offset) 0xF#4 v :: rest →
    (g ∈ [.id, .len, .fsign, .fint, .ffrac, .fscale, .pend, .result] ∨ (∃ k, g = .scaleTbl k) →
      step s = .next { s with inbox := rest, responses := .writeOk :: s.responses }) ∧
    (g ∈ [.value, .digits, .evalReg, .outptr, .pstart, .pflags, .iacc, .icnt, .fval, .fscl, .expm, .accLo, .accHi] →
      ∃ t, step s = .next t ∧
        (∀ k, k < 32 → (t.readReg g).getLsbD k = (v.getLsbD k && (!(g == .pflags) || decide (k < 2)))) ∧
        (∀ h : Reg, h ≠ g → t.readReg h = s.readReg h) ∧
        t.mem = s.mem ∧ t.inFlight = none ∧ t.params = s.params ∧ t.resets = s.resets ∧ t.draws = s.draws ∧
        t.inbox = rest ∧ t.responses = .writeOk :: s.responses) ∧
    (g = .status → ∃ t, step s = .next t ∧ ∀ k, 7 ≤ k → t.status.getLsbD k = s.status.getLsbD k)) ∧
  (∀ s : State, s.Inv → (∀ k, 2 ≤ k → (s.readReg .pflags).getLsbD k = false) ∧
    (∀ k, 7 ≤ k → (s.readReg .status).getLsbD k = false))

/-- A write of STATUS while idle clears each of DONE, ILL, WBUSY, DOVF, OOVF and DZ whose written bit is 1, and changes no
other bit and no other state (R19). -/
def Obligations.StatusWriteClearsWrittenBits : Prop :=
  ∀ (s : State) (v : Word) (rest : List HostOp), s.inFlight = none → s.flag .busy = false →
    s.inbox = .wr 0x004#12 0xF#4 v :: rest →
    ∃ st, step s = .next { s with status := st, inbox := rest, responses := .writeOk :: s.responses } ∧
      ∀ k, st.getLsbD k = (s.status.getLsbD k && !(decide (1 ≤ k ∧ k ≤ 6) && v.getLsbD k))

/-- Buffer words are little-endian (R46): a write of v while idle puts v[8k+7:8k] in byte 4j+k of the buffer and changes no
other byte and no register, and the next read of the word answers v. -/
def Obligations.BufferWordsAreLittleEndian : Prop :=
  ∀ (s : State) (off : Offset) (v : Word) (rest : List HostOp), s.inFlight = none → s.flag .busy = false →
    LegalOffset s.params off.toNat → 0x100 ≤ off.toNat → s.inbox = .wr off 0xF#4 v :: .rd off :: rest →
    ∃ m, step s = .next { s with
        mem := m, inbox := .rd off :: rest, responses := .writeOk :: s.responses } ∧
      (∀ k < 4, ({ s with mem := m } : State).byteAt (off.toNat + k) = v.extractLsb' (8 * k) 8) ∧
      (∀ a, a < off.toNat ∨ off.toNat + 4 ≤ a → ({ s with mem := m } : State).byteAt a = s.byteAt a) ∧
      step { s with mem := m, inbox := .rd off :: rest, responses := .writeOk :: s.responses } =
        .next { s with mem := m, inbox := rest, responses := .readOk v :: .writeOk :: s.responses }

/-! ### Reset (70_reset_and_hazards.md R113, R114) -/

/-- A reset at any moment (R113): every register takes its reset value, a running command is abandoned with none of its
effects, and every byte of the buffers is unspecified again. What is not FXDP's own (parameters, pending operations,
transcript, draw counter) stays. -/
def Obligations.ResetEventRestoresReset : Prop :=
  ∀ (s : State) (rest : List HostOp), s.due = false → s.inbox = .reset :: rest →
    ∃ t, step s = .next t ∧ (∀ r : Reg, t.readReg r = State.reset.readReg r) ∧ t.inFlight = none ∧
      (∀ a, t.byteAt a = Config.resetByte (s.resets + 1) a) ∧
      t.params = s.params ∧ t.inbox = rest ∧ t.responses = s.responses ∧ t.draws = s.draws

/-- The state after reset (R114): CTRL, STATUS and every register 0 but ID, FSCL and the scale table; no command latched;
the buffers unspecified, each byte a free value; the parse working registers as PCLR leaves them. -/
def Obligations.StateAfterReset : Prop :=
  (∀ r ∈ [Reg.ctrl, .status, .value, .digits, .evalReg, .outptr, .len, .fsign, .fint, .ffrac, .fscale, .pstart, .pend,
      .result, .pflags, .iacc, .icnt, .fval, .expm, .accLo, .accHi], State.reset.readReg r = 0x00000000#32) ∧
  State.reset.readReg .id = 0x46580107#32 ∧ State.reset.readReg .fscl = 0x00000001#32 ∧
  (∀ k : Fin 8, (State.reset.readReg (.scaleTbl k)).toNat =
    [1, 10, 100, 1000, 10000, 100000, 100000, 100000].getD k.val 0) ∧
  State.reset.inFlight = none ∧ (∀ a, State.reset.byteAt a = Config.resetByte State.reset.resets a) ∧
  exec .pclr State.reset = .next State.reset

/-! ### Whole-machine rules -/

/-- Every step keeps the invariant (R17, R19, R30, R38, R66). -/
def Obligations.StepKeepsInv : Prop := ∀ s t : State, s.Inv → step s = .next t → t.Inv

/-- Every step keeps the ranges of the formatter's results (R26, R74, R78). -/
def Obligations.StepKeepsResultRanges : Prop :=
  ∀ s t : State, s.ResultRanges → step s = .next t → t.ResultRanges

/-- The state after reset meets both invariants. -/
def Obligations.ResetMeetsInvariants : Prop := State.reset.Inv ∧ State.reset.ResultRanges

/-- FXDP never stops (R67, R103): from every state that meets the invariant a step answers a next state. -/
def Obligations.NeverStops : Prop := ∀ s : State, s.Inv → ∃ t, step s = .next t

/-- Exec is total (R67): every command answers a next state from every state, and no step changes the parameters (R8). -/
def Obligations.EveryCommandCompletes : Prop :=
  (∀ (i : Instr) (s : State), ∃ t, exec i s = .next t ∧ t.params = s.params) ∧
  (∀ s t : State, step s = .next t → t.params = s.params)

/-- The condition flags are sticky (R104): a step clears ILL, WBUSY, DOVF, OOVF or DZ only where it is a reset, or an idle
host write of STATUS with a 1 in that bit; a CTRL write while idle clears DONE, and a reset clears all of STATUS. -/
def Obligations.FlagsAreSticky : Prop :=
  (∀ (s t : State) (f : Flag), f ∈ [Flag.ill, .wbusy, .dovf, .oovf, .dz] → step s = .next t → s.flag f = true →
    t.flag f = false →
    s.due = false ∧ ((∃ rest, s.inbox = .reset :: rest) ∨
      (s.flag .busy = false ∧ ∃ v rest, s.inbox = .wr 0x004#12 0xF#4 v :: rest ∧ v.getLsbD f.bit = true))) ∧
  (∀ (s t : State) (w : Word) (rest : List HostOp), s.due = false → s.flag .busy = false →
    s.inbox = .wr 0x000#12 0xF#4 w :: rest → step s = .next t → t.flag .done = false) ∧
  (∀ (s t : State) (rest : List HostOp), s.due = false → s.inbox = .reset :: rest → step s = .next t → t.status = 0)

/-- No command writes TXT, and only EMIT and FMT write OUT (R43); for EMIT and FMT every byte outside the OUT window keeps
its value. No command changes CTRL, the sequencer, or the registers VALUE, DIGITS, EVAL and PSTART. -/
def Obligations.CommandsWriteOnlyTheirOwn : Prop :=
  ∀ (i : Instr) (s t : State), exec i s = .next t →
    ((∀ e k, i ≠ .emit e k) → i ≠ .fmt → t.mem = s.mem) ∧
    (∀ a, inOut s.params a = false → t.byteAt a = s.byteAt a) ∧
    t.ctrl = s.ctrl ∧ t.value = s.value ∧ t.digits = s.digits ∧ t.evalReg = s.evalReg ∧ t.pstart = s.pstart ∧
    t.inFlight = s.inFlight ∧ t.inbox = s.inbox ∧ t.responses = s.responses ∧ t.draws = s.draws ∧
    t.resets = s.resets

/-- What a command computes does not depend on OUT, nor, except for PARSE, on TXT (R43, R67): with other buffer bytes
(for PARSE: other bytes outside TXT) Exec leaves every register and flag the same. FMT reads back only its own bytes. -/
def Obligations.ExecReadsNoForeignBytes : Prop :=
  ∀ (i : Instr) (s : State) (m : Memory), s.params.wf = true →
    ((∃ ae sh, i = .parse ae sh) → ∀ j, ({ s with mem := m } : State).textAt j = s.textAt j) →
    ∃ t t', exec i s = .next t ∧ exec i { s with mem := m } = .next t' ∧ t' = { t with mem := t'.mem }

/-! ### NOP (45_control.md R94) -/

/-- NOP: the word 0 and no other word with OP = 0 is NOP; Exec changes nothing, and completion sets DONE. -/
def Obligations.NopDoesNothing : Prop :=
  decode 0x00000000#32 = .ok .nop ∧
  (∀ (w : Word) (i : Instr), w.toNat % 16 = 0 → w ≠ 0x00000000#32 → decode w ≠ .ok i) ∧
  (∀ s : State, exec .nop s = .next s) ∧
  (∀ s : State, s.inFlight = some ⟨0x00000000#32, 0⟩ →
    step s = .next { s with status := completedStatus s.status, inFlight := none })

/-! ### Digit emission (41_digit_emission.md) -/

/-- The properties (a) to (e) of `EmitDigits` in R71; and where v >= 10^(e+1), all bytes: the first is the low byte of
0x30 + v / 10^e (R70), and the e digits of v mod 10^e follow, padded with '0' (R69). -/
def Obligations.EmitDigitsProperties : Prop :=
  ∀ (v e : Nat) (skip : Bool) (bs : List Byte) (ovf : Bool), emitDigits v e skip = (bs, ovf) →
    1 ≤ bs.length ∧
    (skip = false → bs.length = e + 1) ∧
    (skip = true → bs.length = min (e + 1) (decimalText v).length) ∧
    (ovf = true ↔ 10 ^ (e + 1) ≤ v) ∧ (∀ b ∈ bs.tail, isDigit b = true) ∧
    (10 ^ (e + 1) ≤ v →
      bs = BitVec.ofNat 8 (0x30 + v / 10 ^ e) :: (if e = 0 then [] else paddedText (v % 10 ^ e) e)) ∧
    (v < 10 ^ (e + 1) → skip = false → bs = paddedText v (e + 1)) ∧
    (v < 10 ^ (e + 1) → skip = true → bs = decimalText v)

/-- EMIT e, s (R72): the bytes of `EmitDigits(EVAL, e, s)` stand in OUT from OUTPTR on, each at its index modulo 2^32 where
that is below OUT_LEN and dropped where it is not; OUTPTR advances by their number modulo 2^32; DOVF and OOVF are raised as
R98 and R99 say; every other byte, register and flag is unchanged. (Exec for e above 9, which no legal word gives, is the
model's choice, log entry 21.) -/
def Obligations.EmitRendersEval : Prop :=
  (∀ (e : BitVec 4) (skip : Bool),
    (e.toNat ≤ 9 → decode (BitVec.ofNat 32 (1 + 256 * e.toNat + if skip then 4096 else 0)) = .ok (.emit e skip)) ∧
    (9 < e.toNat → ∀ i, decode (BitVec.ofNat 32 (1 + 256 * e.toNat + if skip then 4096 else 0)) ≠ .ok i)) ∧
  ∀ (e : BitVec 4) (skip : Bool) (s : State), ∃ t, exec (.emit e skip) s = .next t ∧
    t = { s with outptr := t.outptr, status := t.status, mem := t.mem } ∧
    t.outptr.toNat = (s.outptr.toNat + (emitDigits s.evalReg.toNat e.toNat skip).1.length) % 2 ^ 32 ∧
    (∀ j b, (emitDigits s.evalReg.toNat e.toNat skip).1[j]? = some b → (s.outptr.toNat + j) % 2 ^ 32 < s.params.outLen →
      t.outAt ((s.outptr.toNat + j) % 2 ^ 32) = b) ∧
    (∀ a, (∀ j, j < (emitDigits s.evalReg.toNat e.toNat skip).1.length →
        (s.outptr.toNat + j) % 2 ^ 32 < s.params.outLen → a ≠ outBase + (s.outptr.toNat + j) % 2 ^ 32) →
      t.byteAt a = s.byteAt a) ∧
    SameBitsExcept t.status s.status [4, 5] ∧
    (t.flag .dovf = true ↔ s.flag .dovf = true ∨ (emitDigits s.evalReg.toNat e.toNat skip).2 = true) ∧
    (t.flag .oovf = true ↔ s.flag .oovf = true ∨
      ∃ j, j < (emitDigits s.evalReg.toNat e.toNat skip).1.length ∧ s.params.outLen ≤ (s.outptr.toNat + j) % 2 ^ 32) ∧
    (∀ w, decode w = .ok (.emit e skip) → s.inFlight = some ⟨w, 0⟩ → step s = .next t.complete)

/-- DOVF (R98): EMIT raises it exactly when EVAL >= 10^(e+1); FMT never does. -/
def Obligations.DovfOnlyFromEmit : Prop :=
  (∀ (e : BitVec 4) (skip : Bool) (s : State), ∃ t, exec (.emit e skip) s = .next t ∧
    (t.flag .dovf = true ↔ s.flag .dovf = true ∨ 10 ^ (e.toNat + 1) ≤ s.evalReg.toNat)) ∧
  (∀ s : State, ∃ t, exec .fmt s = .next t ∧ t.flag .dovf = s.flag .dovf) ∧
  (∀ (i : Instr) (s t : State), (∀ e k, i ≠ .emit e k) → exec i s = .next t → t.flag .dovf = s.flag .dovf)

/-! ### Formatter (42_formatter.md) -/

/-- FPROJ (R73, R75): sign, integer part and scaled fraction of the absolute value, with the carry, at the scale that
DIGITS[2:0] selects, are written to FSIGN, FINT, FFRAC and FSCALE; nothing else changes. -/
def Obligations.FprojProjectsValue : Prop :=
  decode 0x00000002#32 = .ok .fproj ∧
  (∀ (w : Word) (i : Instr), w.toNat % 16 = 2 → w ≠ 0x00000002#32 → decode w ≠ .ok i) ∧
  ∀ s : State, ∃ t, exec .fproj s = .next t ∧
    t = { s with fsign := t.fsign, fint := t.fint, ffrac := t.ffrac, fscale := t.fscale } ∧
    (let u := s.value.toInt.natAbs
     let sc := [1, 10, 100, 1000, 10000, 100000, 100000, 100000].getD (s.digits.toNat % 8) 0
     let p := u % 65536 * sc
     let f := match s.params.fracMulRound with
       | .nearestUp => (p + 32768) / 65536
       | .truncate => p / 65536
     t.fsign.toNat = (if s.value.toInt < 0 then 1 else 0) ∧
     t.fint.toNat = (if sc ≤ f then u / 65536 + 1 else u / 65536) ∧
     t.ffrac.toNat = (if sc ≤ f then f - sc else f) ∧
     t.fscale.toNat = sc) ∧
    (s.inFlight = some ⟨0x00000002#32, 0⟩ → step s = .next t.complete)

/-- The ranges after `Project`, and when the carry happens (R74): with NEAREST_UP the product is at most the scale, so that the
fraction after a carry is 0; with TRUNCATE it is below the scale, and there is no carry. -/
def Obligations.ProjectRanges : Prop :=
  ∀ (vv dd : Word),
    (∀ r : MulRound,
      let q := project r vv dd
      (q.neg = true ↔ vv.toInt < 0) ∧ magnitude vv ≤ 2 ^ 31 ∧ q.ip ≤ 32768 ∧ q.fs < q.s ∧
      (magnitude vv / 65536 = 32768 ↔ vv = 0x80000000#32)) ∧
    (let q := project .truncate vv dd
     q.ip = magnitude vv / 65536 ∧ q.fs = mulr .truncate (magnitude vv % 65536) q.s) ∧
    (let q := project .nearestUp vv dd
     let fr := magnitude vv % 65536
     (q.ip = magnitude vv / 65536 + 1 ↔ q.s * 65536 ≤ fr * q.s + 32768) ∧
     mulr .nearestUp fr q.s ≤ q.s ∧
     (q.ip = magnitude vv / 65536 + 1 → q.fs = 0) ∧
     (q.ip ≠ magnitude vv / 65536 + 1 → q.ip = magnitude vv / 65536 ∧ q.fs = mulr .nearestUp fr q.s) ∧
     (q.ip = magnitude vv / 65536 + 1 ↔ (q.s = 1 ∧ 0x8000 ≤ fr) ∨ (q.s = 10 ∧ 0xF334 ≤ fr) ∨ (q.s = 100 ∧ 0xFEB9 ≤ fr) ∨
      (q.s = 1000 ∧ 0xFFE0 ≤ fr) ∨ (q.s = 10000 ∧ 0xFFFD ≤ fr)))

/-- What the projection means: with FRAC_MUL_ROUND = NEAREST_UP, FINT and FFRAC are the quotient and remainder by FSCALE of
|VALUE| * FSCALE rounded to the nearest integer, ties up (from R62 and R73). -/
def Obligations.ProjectionRoundsToNearest : Prop :=
  ∀ s : State, s.params.fracMulRound = .nearestUp → ∃ t, exec .fproj s = .next t ∧
    t.fint.toNat * t.fscale.toNat + t.ffrac.toNat = (s.value.toInt.natAbs * t.fscale.toNat + 2 ^ 15) / 2 ^ 16 ∧
    t.ffrac.toNat < t.fscale.toNat

/-- FMT (R76, R77): OUT[0 .. LEN-1] is the minimal text of the projection, every byte from there to the first terminator
written is 0x00, LEN and OUTPTR are its length, FSIGN to FSCALE are those of FPROJ, and every other register, flag and
byte is unchanged. -/
def Obligations.FmtWritesCanonicalText : Prop :=
  ∀ s : State, s.params.wf = true → ∃ t p, exec .fmt s = .next t ∧ exec .fproj s = .next p ∧
    t = { s with fsign := p.fsign, fint := p.fint, ffrac := p.ffrac, fscale := p.fscale,
                 len := t.len, outptr := t.len, mem := t.mem } ∧
    (let k := min (s.digits.toNat % 8) 5
     let text := canonicalText (p.fsign == 1#32) p.fint.toNat p.ffrac.toNat k
     let rawLen := p.fsign.toNat + (decimalText p.fint.toNat).length + (if k = 0 then 0 else k + 1)
     t.len.toNat = text.length ∧ (∀ j b, text[j]? = some b → t.outAt j = b) ∧
     (∀ j, text.length ≤ j → j ≤ rawLen → t.outAt j = 0x00#8) ∧
     (∀ a, a < outBase ∨ outBase + rawLen < a → t.byteAt a = s.byteAt a))

/-- The properties (a) to (e) of FMT in R78, for legal parameters: '-' first exactly for a negative VALUE; no '.' when
DIGITS[2:0] = 0; the text ends in no '.', and in no '0' after a '.'; LEN <= 12 and a terminator after it; no flag raised. -/
def Obligations.FmtTextProperties : Prop :=
  ∀ s : State, s.params.wf = true → ∃ t, exec .fmt s = .next t ∧
    (t.outAt 0 = chMinus ↔ s.value.toInt < 0) ∧
    (s.digits.toNat % 8 = 0 → ∀ j, j < t.len.toNat → t.outAt j ≠ chDot) ∧
    1 ≤ t.len.toNat ∧ t.len.toNat ≤ 12 ∧ t.outAt t.len.toNat = 0x00#8 ∧
    t.outAt (t.len.toNat - 1) ≠ chDot ∧
    ((∃ j, j < t.len.toNat ∧ t.outAt j = chDot) → t.outAt (t.len.toNat - 1) ≠ chZero) ∧
    t.status = s.status

/-! ### Parse arithmetic (43_parse_arithmetic.md) -/

/-- PCLR (R80). -/
def Obligations.PclrClearsWorkingState : Prop :=
  decode 0x00000004#32 = .ok .pclr ∧
  (∀ (w : Word) (i : Instr), w.toNat % 16 = 4 → w ≠ 0x00000004#32 → decode w ≠ .ok i) ∧
  (∀ s : State, ∃ t, exec .pclr s = .next t ∧
    t = { s with iacc := 0, icnt := 0, fval := 0, fscl := 1, expm := 0, pflags := 0, accHi := 0, accLo := 0 } ∧
    t.acc = 0 ∧ exec .pclr t = .next t ∧
    (s.inFlight = some ⟨0x00000004#32, 0⟩ → step s = .next t.complete))

/-- PIDIG d (R81): IACC and ICNT, both modulo 2^32; nothing else changes. (Exec for d above 9, which no legal word gives, is the
model's choice, log entry 21.) -/
def Obligations.PidigAccumulatesDigit : Prop :=
  ∀ d : BitVec 4,
    (d.toNat ≤ 9 → decode (BitVec.ofNat 32 (5 + 256 * d.toNat)) = .ok (.pidig d)) ∧
    (9 < d.toNat → ∀ i, decode (BitVec.ofNat 32 (5 + 256 * d.toNat)) ≠ .ok i) ∧
    ∀ s : State, ∃ t, exec (.pidig d) s = .next t ∧ t = { s with iacc := t.iacc, icnt := t.icnt } ∧
      t.iacc.toNat = (s.iacc.toNat * 10 + d.toNat) % 2 ^ 32 ∧ t.icnt.toNat = (s.icnt.toNat + 1) % 2 ^ 32 ∧
      (d.toNat ≤ 9 → s.inFlight = some ⟨BitVec.ofNat 32 (5 + 256 * d.toNat), 0⟩ → step s = .next t.complete)

/-- PSEED (R82): ACC becomes IACC * 2^32; nothing else changes. -/
def Obligations.PseedSeedsAccumulator : Prop :=
  decode 0x00000006#32 = .ok .pseed ∧
  (∀ (w : Word) (i : Instr), w.toNat % 16 = 6 → w ≠ 0x00000006#32 → decode w ≠ .ok i) ∧
  (∀ s : State, ∃ t, exec .pseed s = .next t ∧ t = { s with accHi := s.iacc, accLo := 0 } ∧
    t.acc.toNat = s.iacc.toNat * 2 ^ 32 ∧ (s.inFlight = some ⟨0x00000006#32, 0⟩ → step s = .next t.complete))

/-- PFDIG d (R83): below the cap FSCL is multiplied by ten, never wrapping, and FVAL takes the digit modulo 2^32; at or above
10^8 nothing changes. (Exec for d above 9, which no legal word gives, is the model's choice, log entry 21.) -/
def Obligations.PfdigAccumulatesUnderCap : Prop :=
  ∀ d : BitVec 4,
    (d.toNat ≤ 9 → decode (BitVec.ofNat 32 (7 + 256 * d.toNat)) = .ok (.pfdig d)) ∧
    (9 < d.toNat → ∀ i, decode (BitVec.ofNat 32 (7 + 256 * d.toNat)) ≠ .ok i) ∧
    ∀ s : State, ∃ t, exec (.pfdig d) s = .next t ∧ t = { s with fscl := t.fscl, fval := t.fval } ∧
      (s.fscl.toNat < 100000000 →
        t.fscl.toNat = s.fscl.toNat * 10 ∧ t.fval.toNat = (s.fval.toNat * 10 + d.toNat) % 2 ^ 32) ∧
      (100000000 ≤ s.fscl.toNat → t = s) ∧
      (d.toNat ≤ 9 → s.inFlight = some ⟨BitVec.ofNat 32 (7 + 256 * d.toNat), 0⟩ → step s = .next t.complete)

/-- PFCOMB (R84, R100): with FSCL = 0 it raises DZ and leaves ACC; else ACC takes the floor of FVAL * 2^32 / FSCL, which is
below 2^64, modulo 2^64. Nothing else changes. -/
def Obligations.PfcombAddsExactRatio : Prop :=
  decode 0x00000008#32 = .ok .pfcomb ∧
  (∀ (w : Word) (i : Instr), w.toNat % 16 = 8 → w ≠ 0x00000008#32 → decode w ≠ .ok i) ∧
  (∀ s : State, ∃ t, exec .pfcomb s = .next t ∧
    (s.fscl = 0 → t = { s with status := t.status } ∧ t.flag .dz = true ∧ SameBitsExcept t.status s.status [6]) ∧
    (s.fscl ≠ 0 → t = { s with accHi := t.accHi, accLo := t.accLo } ∧
      s.fval.toNat * 2 ^ 32 / s.fscl.toNat < 2 ^ 64 ∧
      t.acc.toNat = (s.acc.toNat + s.fval.toNat * 2 ^ 32 / s.fscl.toNat) % 2 ^ 64) ∧
    (s.inFlight = some ⟨0x00000008#32, 0⟩ → step s = .next t.complete))

/-- PEDIG d (R85): EXPM modulo 2^32; nothing else changes. (Exec for d above 9, which no legal word gives, is the model's choice,
log entry 21.) -/
def Obligations.PedigAccumulatesExponent : Prop :=
  ∀ d : BitVec 4,
    (d.toNat ≤ 9 → decode (BitVec.ofNat 32 (9 + 256 * d.toNat)) = .ok (.pedig d)) ∧
    (9 < d.toNat → ∀ i, decode (BitVec.ofNat 32 (9 + 256 * d.toNat)) ≠ .ok i) ∧
    ∀ s : State, ∃ t, exec (.pedig d) s = .next t ∧ t = { s with expm := t.expm } ∧
      t.expm.toNat = (s.expm.toNat * 10 + d.toNat) % 2 ^ 32 ∧
      (d.toNat ≤ 9 → s.inFlight = some ⟨BitVec.ofNat 32 (9 + 256 * d.toNat), 0⟩ → step s = .next t.complete)

/-- PEXP (R86): ACC is divided by ten, floor, or multiplied by ten modulo 2^64, as EXPNEG says, EXPM times; nothing else
changes. The model stops after 64 steps (R87); this says that every count gives the same result. -/
def Obligations.PexpRepeatsTenStep : Prop :=
  decode 0x0000000A#32 = .ok .pexp ∧
  (∀ (w : Word) (i : Instr), w.toNat % 16 = 10 → w ≠ 0x0000000A#32 → decode w ≠ .ok i) ∧
  (∀ s : State, ∃ t, exec .pexp s = .next t ∧ t = { s with accHi := t.accHi, accLo := t.accLo } ∧
    t.acc.toNat =
      Nat.iterate (fun a => if s.pflags.getLsbD 1 then a / 10 else a * 10 % 2 ^ 64) s.expm.toNat s.acc.toNat ∧
    (s.inFlight = some ⟨0x0000000A#32, 0⟩ → step s = .next t.complete))

/-- PEXP in closed form (R87). -/
def Obligations.PexpClosedForm : Prop :=
  ∀ s : State, ∃ t, exec .pexp s = .next t ∧
    (s.pflags.getLsbD 1 = false → t.acc.toNat = s.acc.toNat * 10 ^ s.expm.toNat % 2 ^ 64 ∧
      (64 ≤ s.expm.toNat → t.acc = 0)) ∧
    (s.pflags.getLsbD 1 = true → t.acc.toNat = s.acc.toNat / 10 ^ s.expm.toNat ∧ (20 ≤ s.expm.toNat → t.acc = 0)) ∧
    (∀ n a, tenSteps (expNegFlag s.pflags) n a = tenSteps (expNegFlag s.pflags) (min n 64) a)

/-- PDOWN sh (R88): RESULT is ACC shifted right by 16, or by 32 with SHIFT, truncated or rounded as DOWNCVT_ROUND says, the low
32 bits kept, and negated modulo 2^32 when NEG is set; nothing else changes. -/
def Obligations.PdownConvertsAccumulator : Prop :=
  decode 0x0000000B#32 = .ok (.pdown false) ∧ decode 0x0000400B#32 = .ok (.pdown true) ∧
  (∀ (w : Word) (i : Instr), w.toNat % 16 = 11 → w ≠ 0x0000000B#32 → w ≠ 0x0000400B#32 → decode w ≠ .ok i) ∧
  (∀ (sh : Bool) (s : State), ∃ t, exec (.pdown sh) s = .next t ∧ t = { s with result := t.result } ∧
    (let k := if sh then 32 else 16
     let a := match s.params.downcvtRound with
       | .truncate => s.acc.toNat
       | .nearestUp => s.acc.toNat + 2 ^ (k - 1)
     (s.pflags.getLsbD 0 = false → t.result.toNat = a / 2 ^ k % 2 ^ 32) ∧
     (s.pflags.getLsbD 0 = true → t.result.toNat = (2 ^ 32 - a / 2 ^ k % 2 ^ 32) % 2 ^ 32)) ∧
    (s.inFlight = some ⟨if sh then 0x0000400B#32 else 0x0000000B#32, 0⟩ → step s = .next t.complete))

/-! ### Parser (44_parser.md) -/

/-- PARSE writes PEND, RESULT and the parse working registers only: no buffer byte, no formatter register and no flag changes
(R89, R93 (e)); with legal parameters PEND lies from PSTART to TXT_LEN, or is PSTART beyond it. -/
def Obligations.ParseWritesOnlyParseState : Prop :=
  ∀ (ae sh : Bool) (s : State), ∃ t, exec (.parse ae sh) s = .next t ∧
    t = { s with
      pend := t.pend, result := t.result, iacc := t.iacc, icnt := t.icnt, fval := t.fval, fscl := t.fscl, expm := t.expm,
      pflags := t.pflags, accHi := t.accHi, accLo := t.accLo } ∧
    (s.params.wf = true → s.pstart.toNat ≤ t.pend.toNat ∧ t.pend.toNat ≤ max s.pstart.toNat s.params.txtLen)

/-- A text with no integer digit (R89 step 4, R90, R93 (a)): RESULT is 0 and PEND stands after the whitespace and the sign;
PFLAGS holds the sign and the other working registers are as PCLR leaves them. -/
def Obligations.ParseWithoutIntegerDigitsGivesZero : Prop :=
  ∀ (ae sh : Bool) (s : State) (ws : List Byte) (sg : Option Bool) (c : Byte), s.params.wf = true →
    ws.all (isSpace s.params) = true →
    TextAt s s.pstart.toNat (ws ++ signBytes sg) →
    s.textAt (s.pstart.toNat + ws.length + (signBytes sg).length) = c → isDigit c = false →
    (sg = none → isSpace s.params c = false ∧ c ≠ chPlus ∧ c ≠ chMinus) →
    exec (.parse ae sh) s = .next { s with
      pend := BitVec.ofNat 32 (s.pstart.toNat + ws.length + (signBytes sg).length), result := 0,
      iacc := 0, icnt := 0, fval := 0, fscl := 1, expm := 0, accHi := 0, accLo := 0,
      pflags := if sg = some true then 1 else 0 }

/-- The value of a parsed text (R91, R92): PEND stands after the text, ACC is the exact ratio scaled by the exponent, RESULT is
its down-conversion with the sign, and the working registers hold what the `Do` steps of R89 leave: the digits read, their
counts and the signs. An exponent marker that EXP_BACKTRACK = true gives back is not part of the text: PEND stands at it, EXPM
is 0 and EXPNEG is clear (R89 step 7, R90). -/
def Obligations.ParseComputesValue : Prop :=
  ∀ (ae sh : Bool) (s : State) (x : NumText), s.params.wf = true → x.ok s.params ae = true →
    TextAt s s.pstart.toNat x.bytes →
    x.stopsAt s.params ae (s.textFrom (s.pstart.toNat + x.bytes.length)) = true →
    ∃ t, exec (.parse ae sh) s = .next t ∧
      t.pend.toNat = s.pstart.toNat + x.bytes.length ∧ t.acc.toNat = x.accValue ∧
      t.result = x.resultValue s.params.downcvtRound sh ∧
      t.iacc.toNat = decimalValue x.ints % 2 ^ 32 ∧ t.icnt.toNat = x.ints.length ∧
      t.fval.toNat = decimalValue x.fracDigits ∧ t.fscl.toNat = 10 ^ x.fracDigits.length ∧
      t.expm.toNat = decimalValue x.expDigits % 2 ^ 32 ∧
      t.pflags.toNat = (if x.sign = some true then 1 else 0) + (if x.expNeg then 2 else 0)

/-- PARSE of '-' followed by a text that begins with a digit (R93 (b)): the result is negated modulo 2^32 and one more byte is
consumed. -/
def Obligations.ParseNegatesAfterMinus : Prop :=
  ∀ (ae sh : Bool) (s s' : State), s.params.wf = true → s'.params = s.params →
    isDigit (s.textAt s.pstart.toNat) = true → s'.textAt s'.pstart.toNat = chMinus →
    (∀ j, s'.textAt (s'.pstart.toNat + 1 + j) = s.textAt (s.pstart.toNat + j)) →
    ∃ t t', exec (.parse ae sh) s = .next t ∧ exec (.parse ae sh) s' = .next t' ∧
      t'.result.toNat = (2 ^ 32 - t.result.toNat) % 2 ^ 32 ∧
      t'.pend.toNat - s'.pstart.toNat = t.pend.toNat - s.pstart.toNat + 1

/-- The primitive sequence of R118 computes what PARSE computes: PCLR, NEG set by hand, PIDIG for each integer digit, PSEED,
PFDIG for each fraction digit, PFCOMB, EXPNEG set by hand, PEDIG for each exponent digit, PEXP, PDOWN. Where EXP_BACKTRACK =
true gives a marker back, the text has no exponent, and the sequence no PEDIG and no EXPNEG. -/
def Obligations.PrimitiveSequenceEqualsParse : Prop :=
  ∀ (ae sh : Bool) (s p : State) (x : NumText), s.params = p.params → p.params.wf = true → x.ok p.params ae = true →
    TextAt p p.pstart.toNat x.bytes →
    x.stopsAt p.params ae (p.textFrom (p.pstart.toNat + x.bytes.length)) = true →
    ∃ a b c u, runAll [.pclr] s = some a ∧
      runAll (perDigit .pidig x.ints ++ [.pseed] ++ perDigit .pfdig x.fracDigits ++ [.pfcomb])
        (if x.sign = some true then { a with pflags := setNeg a.pflags } else a) = some b ∧
      runAll (perDigit .pedig x.expDigits ++ [.pexp, .pdown sh])
        (if x.expNeg then { b with pflags := setExpNeg b.pflags } else b) = some c ∧
      exec (.parse ae sh) p = .next u ∧ c.result = u.result ∧ c.acc = u.acc

/-! ### Between commands (60_exceptions.md R112) -/

/-- Between commands FXDP is idle and keeps every register and byte (R112): a step with nothing pending changes nothing at all; an
idle cycle only passes; a read, at whatever offset, changes no register, flag or byte; and a WAIT ends at once, its one read of
STATUS answering STATUS (R59). Only a write and a reset are left. (The pending operations, the transcript and the draw counter
are the model's own, log entries 7 and 15.) -/
def Obligations.IdleKeepsEverything : Prop :=
  ∀ s : State, s.inFlight = none → s.flag .busy = false →
    (s.inbox = [] → step s = .next s) ∧
    (∀ rest, s.inbox = .idle :: rest → step s = .next { s with inbox := rest }) ∧
    (∀ off rest, s.inbox = .rd off :: rest → ∃ r d,
      step s = .next { s with inbox := rest, responses := r :: s.responses, draws := d }) ∧
    (∀ rest, s.inbox = .wait :: rest →
      step s = .next { s with inbox := rest, responses := .readOk s.status :: s.responses }) ∧
    (∀ t : State, step s = .next t → ¬ SameButPort s t ∨ t.status ≠ s.status ∨ t.inFlight ≠ none →
      ∃ rest, s.inbox = .reset :: rest ∨ ∃ off strb v, s.inbox = .wr off strb v :: rest)
end

