-- ==== Sys2Proof/Laws/State.lean ====
section
/-! SUPPORT. One lemma per field per named update of State, true by rfl: later proofs unfold no record update. -/

namespace Sys2Proof.Machine.State

/-! ### `raise` -/

@[simp] theorem raise_ctrl (s : State) (f : Flag) : (s.raise f).ctrl = s.ctrl := rfl
@[simp] theorem raise_status (s : State) (f : Flag) : (s.raise f).status = setFlag s.status f := rfl
@[simp] theorem raise_value (s : State) (f : Flag) : (s.raise f).value = s.value := rfl
@[simp] theorem raise_digits (s : State) (f : Flag) : (s.raise f).digits = s.digits := rfl
@[simp] theorem raise_evalReg (s : State) (f : Flag) : (s.raise f).evalReg = s.evalReg := rfl
@[simp] theorem raise_outptr (s : State) (f : Flag) : (s.raise f).outptr = s.outptr := rfl
@[simp] theorem raise_len (s : State) (f : Flag) : (s.raise f).len = s.len := rfl
@[simp] theorem raise_fsign (s : State) (f : Flag) : (s.raise f).fsign = s.fsign := rfl
@[simp] theorem raise_fint (s : State) (f : Flag) : (s.raise f).fint = s.fint := rfl
@[simp] theorem raise_ffrac (s : State) (f : Flag) : (s.raise f).ffrac = s.ffrac := rfl
@[simp] theorem raise_fscale (s : State) (f : Flag) : (s.raise f).fscale = s.fscale := rfl
@[simp] theorem raise_pstart (s : State) (f : Flag) : (s.raise f).pstart = s.pstart := rfl
@[simp] theorem raise_pend (s : State) (f : Flag) : (s.raise f).pend = s.pend := rfl
@[simp] theorem raise_result (s : State) (f : Flag) : (s.raise f).result = s.result := rfl
@[simp] theorem raise_pflags (s : State) (f : Flag) : (s.raise f).pflags = s.pflags := rfl
@[simp] theorem raise_iacc (s : State) (f : Flag) : (s.raise f).iacc = s.iacc := rfl
@[simp] theorem raise_icnt (s : State) (f : Flag) : (s.raise f).icnt = s.icnt := rfl
@[simp] theorem raise_fval (s : State) (f : Flag) : (s.raise f).fval = s.fval := rfl
@[simp] theorem raise_fscl (s : State) (f : Flag) : (s.raise f).fscl = s.fscl := rfl
@[simp] theorem raise_expm (s : State) (f : Flag) : (s.raise f).expm = s.expm := rfl
@[simp] theorem raise_accLo (s : State) (f : Flag) : (s.raise f).accLo = s.accLo := rfl
@[simp] theorem raise_accHi (s : State) (f : Flag) : (s.raise f).accHi = s.accHi := rfl
@[simp] theorem raise_mem (s : State) (f : Flag) : (s.raise f).mem = s.mem := rfl
@[simp] theorem raise_inFlight (s : State) (f : Flag) : (s.raise f).inFlight = s.inFlight := rfl
@[simp] theorem raise_params (s : State) (f : Flag) : (s.raise f).params = s.params := rfl
@[simp] theorem raise_inbox (s : State) (f : Flag) : (s.raise f).inbox = s.inbox := rfl
@[simp] theorem raise_responses (s : State) (f : Flag) : (s.raise f).responses = s.responses := rfl
@[simp] theorem raise_draws (s : State) (f : Flag) : (s.raise f).draws = s.draws := rfl
@[simp] theorem raise_resets (s : State) (f : Flag) : (s.raise f).resets = s.resets := rfl

/-! ### `writeByte` -/

@[simp] theorem writeByte_ctrl (s : State) (a : Nat) (b : Byte) : (s.writeByte a b).ctrl = s.ctrl := rfl
@[simp] theorem writeByte_status (s : State) (a : Nat) (b : Byte) : (s.writeByte a b).status = s.status := rfl
@[simp] theorem writeByte_value (s : State) (a : Nat) (b : Byte) : (s.writeByte a b).value = s.value := rfl
@[simp] theorem writeByte_digits (s : State) (a : Nat) (b : Byte) : (s.writeByte a b).digits = s.digits := rfl
@[simp] theorem writeByte_evalReg (s : State) (a : Nat) (b : Byte) : (s.writeByte a b).evalReg = s.evalReg := rfl
@[simp] theorem writeByte_outptr (s : State) (a : Nat) (b : Byte) : (s.writeByte a b).outptr = s.outptr := rfl
@[simp] theorem writeByte_len (s : State) (a : Nat) (b : Byte) : (s.writeByte a b).len = s.len := rfl
@[simp] theorem writeByte_fsign (s : State) (a : Nat) (b : Byte) : (s.writeByte a b).fsign = s.fsign := rfl
@[simp] theorem writeByte_fint (s : State) (a : Nat) (b : Byte) : (s.writeByte a b).fint = s.fint := rfl
@[simp] theorem writeByte_ffrac (s : State) (a : Nat) (b : Byte) : (s.writeByte a b).ffrac = s.ffrac := rfl
@[simp] theorem writeByte_fscale (s : State) (a : Nat) (b : Byte) : (s.writeByte a b).fscale = s.fscale := rfl
@[simp] theorem writeByte_pstart (s : State) (a : Nat) (b : Byte) : (s.writeByte a b).pstart = s.pstart := rfl
@[simp] theorem writeByte_pend (s : State) (a : Nat) (b : Byte) : (s.writeByte a b).pend = s.pend := rfl
@[simp] theorem writeByte_result (s : State) (a : Nat) (b : Byte) : (s.writeByte a b).result = s.result := rfl
@[simp] theorem writeByte_pflags (s : State) (a : Nat) (b : Byte) : (s.writeByte a b).pflags = s.pflags := rfl
@[simp] theorem writeByte_iacc (s : State) (a : Nat) (b : Byte) : (s.writeByte a b).iacc = s.iacc := rfl
@[simp] theorem writeByte_icnt (s : State) (a : Nat) (b : Byte) : (s.writeByte a b).icnt = s.icnt := rfl
@[simp] theorem writeByte_fval (s : State) (a : Nat) (b : Byte) : (s.writeByte a b).fval = s.fval := rfl
@[simp] theorem writeByte_fscl (s : State) (a : Nat) (b : Byte) : (s.writeByte a b).fscl = s.fscl := rfl
@[simp] theorem writeByte_expm (s : State) (a : Nat) (b : Byte) : (s.writeByte a b).expm = s.expm := rfl
@[simp] theorem writeByte_accLo (s : State) (a : Nat) (b : Byte) : (s.writeByte a b).accLo = s.accLo := rfl
@[simp] theorem writeByte_accHi (s : State) (a : Nat) (b : Byte) : (s.writeByte a b).accHi = s.accHi := rfl
@[simp] theorem writeByte_mem (s : State) (a : Nat) (b : Byte) : (s.writeByte a b).mem = Memory.write s.mem a b := rfl
@[simp] theorem writeByte_inFlight (s : State) (a : Nat) (b : Byte) : (s.writeByte a b).inFlight = s.inFlight := rfl
@[simp] theorem writeByte_params (s : State) (a : Nat) (b : Byte) : (s.writeByte a b).params = s.params := rfl
@[simp] theorem writeByte_inbox (s : State) (a : Nat) (b : Byte) : (s.writeByte a b).inbox = s.inbox := rfl
@[simp] theorem writeByte_responses (s : State) (a : Nat) (b : Byte) : (s.writeByte a b).responses = s.responses := rfl
@[simp] theorem writeByte_draws (s : State) (a : Nat) (b : Byte) : (s.writeByte a b).draws = s.draws := rfl
@[simp] theorem writeByte_resets (s : State) (a : Nat) (b : Byte) : (s.writeByte a b).resets = s.resets := rfl

/-! ### `setAcc` -/

@[simp] theorem setAcc_ctrl (s : State) (v : Wide) : (s.setAcc v).ctrl = s.ctrl := rfl
@[simp] theorem setAcc_status (s : State) (v : Wide) : (s.setAcc v).status = s.status := rfl
@[simp] theorem setAcc_value (s : State) (v : Wide) : (s.setAcc v).value = s.value := rfl
@[simp] theorem setAcc_digits (s : State) (v : Wide) : (s.setAcc v).digits = s.digits := rfl
@[simp] theorem setAcc_evalReg (s : State) (v : Wide) : (s.setAcc v).evalReg = s.evalReg := rfl
@[simp] theorem setAcc_outptr (s : State) (v : Wide) : (s.setAcc v).outptr = s.outptr := rfl
@[simp] theorem setAcc_len (s : State) (v : Wide) : (s.setAcc v).len = s.len := rfl
@[simp] theorem setAcc_fsign (s : State) (v : Wide) : (s.setAcc v).fsign = s.fsign := rfl
@[simp] theorem setAcc_fint (s : State) (v : Wide) : (s.setAcc v).fint = s.fint := rfl
@[simp] theorem setAcc_ffrac (s : State) (v : Wide) : (s.setAcc v).ffrac = s.ffrac := rfl
@[simp] theorem setAcc_fscale (s : State) (v : Wide) : (s.setAcc v).fscale = s.fscale := rfl
@[simp] theorem setAcc_pstart (s : State) (v : Wide) : (s.setAcc v).pstart = s.pstart := rfl
@[simp] theorem setAcc_pend (s : State) (v : Wide) : (s.setAcc v).pend = s.pend := rfl
@[simp] theorem setAcc_result (s : State) (v : Wide) : (s.setAcc v).result = s.result := rfl
@[simp] theorem setAcc_pflags (s : State) (v : Wide) : (s.setAcc v).pflags = s.pflags := rfl
@[simp] theorem setAcc_iacc (s : State) (v : Wide) : (s.setAcc v).iacc = s.iacc := rfl
@[simp] theorem setAcc_icnt (s : State) (v : Wide) : (s.setAcc v).icnt = s.icnt := rfl
@[simp] theorem setAcc_fval (s : State) (v : Wide) : (s.setAcc v).fval = s.fval := rfl
@[simp] theorem setAcc_fscl (s : State) (v : Wide) : (s.setAcc v).fscl = s.fscl := rfl
@[simp] theorem setAcc_expm (s : State) (v : Wide) : (s.setAcc v).expm = s.expm := rfl
@[simp] theorem setAcc_accLo (s : State) (v : Wide) : (s.setAcc v).accLo = v.extractLsb' 0 32 := rfl
@[simp] theorem setAcc_accHi (s : State) (v : Wide) : (s.setAcc v).accHi = v.extractLsb' 32 32 := rfl
@[simp] theorem setAcc_mem (s : State) (v : Wide) : (s.setAcc v).mem = s.mem := rfl
@[simp] theorem setAcc_inFlight (s : State) (v : Wide) : (s.setAcc v).inFlight = s.inFlight := rfl
@[simp] theorem setAcc_params (s : State) (v : Wide) : (s.setAcc v).params = s.params := rfl
@[simp] theorem setAcc_inbox (s : State) (v : Wide) : (s.setAcc v).inbox = s.inbox := rfl
@[simp] theorem setAcc_responses (s : State) (v : Wide) : (s.setAcc v).responses = s.responses := rfl
@[simp] theorem setAcc_draws (s : State) (v : Wide) : (s.setAcc v).draws = s.draws := rfl
@[simp] theorem setAcc_resets (s : State) (v : Wide) : (s.setAcc v).resets = s.resets := rfl

/-! ### `complete` -/

@[simp] theorem complete_ctrl (s : State) : (s.complete).ctrl = s.ctrl := rfl
@[simp] theorem complete_status (s : State) : (s.complete).status = completedStatus s.status := rfl
@[simp] theorem complete_value (s : State) : (s.complete).value = s.value := rfl
@[simp] theorem complete_digits (s : State) : (s.complete).digits = s.digits := rfl
@[simp] theorem complete_evalReg (s : State) : (s.complete).evalReg = s.evalReg := rfl
@[simp] theorem complete_outptr (s : State) : (s.complete).outptr = s.outptr := rfl
@[simp] theorem complete_len (s : State) : (s.complete).len = s.len := rfl
@[simp] theorem complete_fsign (s : State) : (s.complete).fsign = s.fsign := rfl
@[simp] theorem complete_fint (s : State) : (s.complete).fint = s.fint := rfl
@[simp] theorem complete_ffrac (s : State) : (s.complete).ffrac = s.ffrac := rfl
@[simp] theorem complete_fscale (s : State) : (s.complete).fscale = s.fscale := rfl
@[simp] theorem complete_pstart (s : State) : (s.complete).pstart = s.pstart := rfl
@[simp] theorem complete_pend (s : State) : (s.complete).pend = s.pend := rfl
@[simp] theorem complete_result (s : State) : (s.complete).result = s.result := rfl
@[simp] theorem complete_pflags (s : State) : (s.complete).pflags = s.pflags := rfl
@[simp] theorem complete_iacc (s : State) : (s.complete).iacc = s.iacc := rfl
@[simp] theorem complete_icnt (s : State) : (s.complete).icnt = s.icnt := rfl
@[simp] theorem complete_fval (s : State) : (s.complete).fval = s.fval := rfl
@[simp] theorem complete_fscl (s : State) : (s.complete).fscl = s.fscl := rfl
@[simp] theorem complete_expm (s : State) : (s.complete).expm = s.expm := rfl
@[simp] theorem complete_accLo (s : State) : (s.complete).accLo = s.accLo := rfl
@[simp] theorem complete_accHi (s : State) : (s.complete).accHi = s.accHi := rfl
@[simp] theorem complete_mem (s : State) : (s.complete).mem = s.mem := rfl
@[simp] theorem complete_inFlight (s : State) : (s.complete).inFlight = none := rfl
@[simp] theorem complete_params (s : State) : (s.complete).params = s.params := rfl
@[simp] theorem complete_inbox (s : State) : (s.complete).inbox = s.inbox := rfl
@[simp] theorem complete_responses (s : State) : (s.complete).responses = s.responses := rfl
@[simp] theorem complete_draws (s : State) : (s.complete).draws = s.draws := rfl
@[simp] theorem complete_resets (s : State) : (s.complete).resets = s.resets := rfl

/-! ### `respond` -/

@[simp] theorem respond_ctrl (s : State) (r : Response) : (s.respond r).ctrl = s.ctrl := rfl
@[simp] theorem respond_status (s : State) (r : Response) : (s.respond r).status = s.status := rfl
@[simp] theorem respond_value (s : State) (r : Response) : (s.respond r).value = s.value := rfl
@[simp] theorem respond_digits (s : State) (r : Response) : (s.respond r).digits = s.digits := rfl
@[simp] theorem respond_evalReg (s : State) (r : Response) : (s.respond r).evalReg = s.evalReg := rfl
@[simp] theorem respond_outptr (s : State) (r : Response) : (s.respond r).outptr = s.outptr := rfl
@[simp] theorem respond_len (s : State) (r : Response) : (s.respond r).len = s.len := rfl
@[simp] theorem respond_fsign (s : State) (r : Response) : (s.respond r).fsign = s.fsign := rfl
@[simp] theorem respond_fint (s : State) (r : Response) : (s.respond r).fint = s.fint := rfl
@[simp] theorem respond_ffrac (s : State) (r : Response) : (s.respond r).ffrac = s.ffrac := rfl
@[simp] theorem respond_fscale (s : State) (r : Response) : (s.respond r).fscale = s.fscale := rfl
@[simp] theorem respond_pstart (s : State) (r : Response) : (s.respond r).pstart = s.pstart := rfl
@[simp] theorem respond_pend (s : State) (r : Response) : (s.respond r).pend = s.pend := rfl
@[simp] theorem respond_result (s : State) (r : Response) : (s.respond r).result = s.result := rfl
@[simp] theorem respond_pflags (s : State) (r : Response) : (s.respond r).pflags = s.pflags := rfl
@[simp] theorem respond_iacc (s : State) (r : Response) : (s.respond r).iacc = s.iacc := rfl
@[simp] theorem respond_icnt (s : State) (r : Response) : (s.respond r).icnt = s.icnt := rfl
@[simp] theorem respond_fval (s : State) (r : Response) : (s.respond r).fval = s.fval := rfl
@[simp] theorem respond_fscl (s : State) (r : Response) : (s.respond r).fscl = s.fscl := rfl
@[simp] theorem respond_expm (s : State) (r : Response) : (s.respond r).expm = s.expm := rfl
@[simp] theorem respond_accLo (s : State) (r : Response) : (s.respond r).accLo = s.accLo := rfl
@[simp] theorem respond_accHi (s : State) (r : Response) : (s.respond r).accHi = s.accHi := rfl
@[simp] theorem respond_mem (s : State) (r : Response) : (s.respond r).mem = s.mem := rfl
@[simp] theorem respond_inFlight (s : State) (r : Response) : (s.respond r).inFlight = s.inFlight := rfl
@[simp] theorem respond_params (s : State) (r : Response) : (s.respond r).params = s.params := rfl
@[simp] theorem respond_inbox (s : State) (r : Response) : (s.respond r).inbox = s.inbox := rfl
@[simp] theorem respond_responses (s : State) (r : Response) : (s.respond r).responses = r :: s.responses := rfl
@[simp] theorem respond_draws (s : State) (r : Response) : (s.respond r).draws = s.draws := rfl
@[simp] theorem respond_resets (s : State) (r : Response) : (s.respond r).resets = s.resets := rfl

/-! ### `drawn` -/

@[simp] theorem drawn_ctrl (s : State) : (s.drawn).ctrl = s.ctrl := rfl
@[simp] theorem drawn_status (s : State) : (s.drawn).status = s.status := rfl
@[simp] theorem drawn_value (s : State) : (s.drawn).value = s.value := rfl
@[simp] theorem drawn_digits (s : State) : (s.drawn).digits = s.digits := rfl
@[simp] theorem drawn_evalReg (s : State) : (s.drawn).evalReg = s.evalReg := rfl
@[simp] theorem drawn_outptr (s : State) : (s.drawn).outptr = s.outptr := rfl
@[simp] theorem drawn_len (s : State) : (s.drawn).len = s.len := rfl
@[simp] theorem drawn_fsign (s : State) : (s.drawn).fsign = s.fsign := rfl
@[simp] theorem drawn_fint (s : State) : (s.drawn).fint = s.fint := rfl
@[simp] theorem drawn_ffrac (s : State) : (s.drawn).ffrac = s.ffrac := rfl
@[simp] theorem drawn_fscale (s : State) : (s.drawn).fscale = s.fscale := rfl
@[simp] theorem drawn_pstart (s : State) : (s.drawn).pstart = s.pstart := rfl
@[simp] theorem drawn_pend (s : State) : (s.drawn).pend = s.pend := rfl
@[simp] theorem drawn_result (s : State) : (s.drawn).result = s.result := rfl
@[simp] theorem drawn_pflags (s : State) : (s.drawn).pflags = s.pflags := rfl
@[simp] theorem drawn_iacc (s : State) : (s.drawn).iacc = s.iacc := rfl
@[simp] theorem drawn_icnt (s : State) : (s.drawn).icnt = s.icnt := rfl
@[simp] theorem drawn_fval (s : State) : (s.drawn).fval = s.fval := rfl
@[simp] theorem drawn_fscl (s : State) : (s.drawn).fscl = s.fscl := rfl
@[simp] theorem drawn_expm (s : State) : (s.drawn).expm = s.expm := rfl
@[simp] theorem drawn_accLo (s : State) : (s.drawn).accLo = s.accLo := rfl
@[simp] theorem drawn_accHi (s : State) : (s.drawn).accHi = s.accHi := rfl
@[simp] theorem drawn_mem (s : State) : (s.drawn).mem = s.mem := rfl
@[simp] theorem drawn_inFlight (s : State) : (s.drawn).inFlight = s.inFlight := rfl
@[simp] theorem drawn_params (s : State) : (s.drawn).params = s.params := rfl
@[simp] theorem drawn_inbox (s : State) : (s.drawn).inbox = s.inbox := rfl
@[simp] theorem drawn_responses (s : State) : (s.drawn).responses = s.responses := rfl
@[simp] theorem drawn_draws (s : State) : (s.drawn).draws = s.draws + 1 := rfl
@[simp] theorem drawn_resets (s : State) : (s.drawn).resets = s.resets := rfl

/-! ### `tick` -/

@[simp] theorem tick_ctrl (s : State) : (s.tick).ctrl = s.ctrl := rfl
@[simp] theorem tick_status (s : State) : (s.tick).status = s.status := rfl
@[simp] theorem tick_value (s : State) : (s.tick).value = s.value := rfl
@[simp] theorem tick_digits (s : State) : (s.tick).digits = s.digits := rfl
@[simp] theorem tick_evalReg (s : State) : (s.tick).evalReg = s.evalReg := rfl
@[simp] theorem tick_outptr (s : State) : (s.tick).outptr = s.outptr := rfl
@[simp] theorem tick_len (s : State) : (s.tick).len = s.len := rfl
@[simp] theorem tick_fsign (s : State) : (s.tick).fsign = s.fsign := rfl
@[simp] theorem tick_fint (s : State) : (s.tick).fint = s.fint := rfl
@[simp] theorem tick_ffrac (s : State) : (s.tick).ffrac = s.ffrac := rfl
@[simp] theorem tick_fscale (s : State) : (s.tick).fscale = s.fscale := rfl
@[simp] theorem tick_pstart (s : State) : (s.tick).pstart = s.pstart := rfl
@[simp] theorem tick_pend (s : State) : (s.tick).pend = s.pend := rfl
@[simp] theorem tick_result (s : State) : (s.tick).result = s.result := rfl
@[simp] theorem tick_pflags (s : State) : (s.tick).pflags = s.pflags := rfl
@[simp] theorem tick_iacc (s : State) : (s.tick).iacc = s.iacc := rfl
@[simp] theorem tick_icnt (s : State) : (s.tick).icnt = s.icnt := rfl
@[simp] theorem tick_fval (s : State) : (s.tick).fval = s.fval := rfl
@[simp] theorem tick_fscl (s : State) : (s.tick).fscl = s.fscl := rfl
@[simp] theorem tick_expm (s : State) : (s.tick).expm = s.expm := rfl
@[simp] theorem tick_accLo (s : State) : (s.tick).accLo = s.accLo := rfl
@[simp] theorem tick_accHi (s : State) : (s.tick).accHi = s.accHi := rfl
@[simp] theorem tick_mem (s : State) : (s.tick).mem = s.mem := rfl
@[simp] theorem tick_inFlight (s : State) : (s.tick).inFlight = s.inFlight.map (fun f => { f with left := f.left - 1 }) := rfl
@[simp] theorem tick_params (s : State) : (s.tick).params = s.params := rfl
@[simp] theorem tick_inbox (s : State) : (s.tick).inbox = s.inbox := rfl
@[simp] theorem tick_responses (s : State) : (s.tick).responses = s.responses := rfl
@[simp] theorem tick_draws (s : State) : (s.tick).draws = s.draws := rfl
@[simp] theorem tick_resets (s : State) : (s.tick).resets = s.resets := rfl

end Sys2Proof.Machine.State
end

