-- ==== Sys2Proof/Laws/Flags.lean ====
section
/-! SUPPORT. The flag computations, bit by bit. -/

namespace Sys2Proof.Machine

/-- The bit of a flag's mask. -/
theorem getLsbD_mask (f : Flag) (k : Nat) : f.mask.getLsbD k = decide (k = f.bit) := by
  have hb : f.bit < 32 := by cases f <;> decide
  simp only [Flag.mask, BitVec.getLsbD_shiftLeft, BitVec.getLsbD_one]
  by_cases h : k = f.bit
  · subst h; simp [hb]
  · have : k < f.bit ∨ f.bit < k := by omega
    rcases this with h' | h'
    · simp [h, h']
    · have : k - f.bit ≠ 0 := by omega
      simp [h, this]

/-- Setting a flag sets its bit and no other. -/
theorem getLsbD_setFlag (w : Word) (f : Flag) (k : Nat) :
    (setFlag w f).getLsbD k = (w.getLsbD k || decide (k = f.bit)) := by
  simp [setFlag, getLsbD_mask]

/-- Clearing a flag clears its bit and no other. -/
theorem getLsbD_clearFlag (w : Word) (f : Flag) (k : Nat) :
    (clearFlag w f).getLsbD k = (w.getLsbD k && !decide (k = f.bit)) := by
  simp only [clearFlag, BitVec.getLsbD_and, BitVec.getLsbD_not, getLsbD_mask]
  by_cases hk : k < 32
  · simp [hk]
  · simp [BitVec.getLsbD_of_ge w k (by omega)]

/-- Completion clears BUSY, sets DONE and keeps every other bit. -/
theorem getLsbD_completedStatus (w : Word) (k : Nat) :
    (completedStatus w).getLsbD k = ((w.getLsbD k && !decide (k = 0)) || decide (k = 1)) := by
  rw [completedStatus, getLsbD_setFlag, getLsbD_clearFlag]
  rfl

/-- Raising a flag shows in that flag only. -/
theorem flag_raise (s : State) (f g : Flag) : (s.raise f).flag g = (s.flag g || decide (g = f)) := by
  show (setFlag s.status f).getLsbD g.bit = _
  rw [getLsbD_setFlag]
  congr 1
  cases f <;> cases g <;> rfl

end Sys2Proof.Machine
end

