-- ==== Sys2Proof/Laws/Memory.lean ====
section
/-! SUPPORT. The laws of memory: a read after a write to the same place gives the value written, a write leaves every other
place alone, and every memory operation keeps the canonical form. -/

namespace Sys2Proof.Machine

namespace Memory

/-- A byte written is the byte read. -/
@[simp] theorem read_write_same (m : Memory) (a : Nat) (b : Byte) : read (write m a b) a = some b := by
  induction m with
  | nil => simp [write, read]
  | cons c rest ih =>
    obtain ⟨x, y⟩ := c
    simp only [write]
    split
    · simp [read]
    · split
      · simp [read]
      · next h => simp [read, ih, Ne.symm h]

/-- A write leaves every other byte alone. -/
theorem read_write_other (m : Memory) {a a' : Nat} (b : Byte) (h : a' ≠ a) : read (write m a b) a' = read m a' := by
  induction m with
  | nil => simp [write, read, Ne.symm h]
  | cons c rest ih =>
    obtain ⟨x, y⟩ := c
    simp only [write]
    split
    · simp [read, Ne.symm h]
    · split
      · next hx => subst hx; simp [read, Ne.symm h]
      · simp [read, ih]

/-- The cells after a write: the new one, and old ones. -/
theorem mem_write {m : Memory} {a : Nat} {b : Byte} {c : Host.Cell} (h : c ∈ write m a b) : c = (a, b) ∨ c ∈ m := by
  induction m with
  | nil => simpa [write] using h
  | cons d rest ih =>
    obtain ⟨x, y⟩ := d
    simp only [write] at h
    split at h
    · simpa using h
    · split at h
      · rcases List.mem_cons.1 h with h | h
        · exact .inl h
        · exact .inr (List.mem_cons_of_mem _ h)
      · rcases List.mem_cons.1 h with h | h
        · exact .inr (h ▸ List.mem_cons_self)
        · exact (ih h).imp id (List.mem_cons_of_mem _)

/-- A write keeps the canonical form. -/
theorem write_wf {m : Memory} (hm : wf m) (a : Nat) (b : Byte) : wf (write m a b) := by
  induction m with
  | nil => simp [write, wf]
  | cons d rest ih =>
    obtain ⟨x, y⟩ := d
    have hd : ∀ c ∈ rest, x < c.1 := (List.pairwise_cons.1 hm).1
    have hr : wf rest := (List.pairwise_cons.1 hm).2
    simp only [write]
    split
    · next hlt =>
      refine List.pairwise_cons.2 ⟨?_, hm⟩
      intro c hc
      rcases List.mem_cons.1 hc with rfl | hc
      · exact hlt
      · exact lt_trans hlt (hd c hc)
    · split
      · next hx => subst hx; exact List.pairwise_cons.2 ⟨hd, hr⟩
      · refine List.pairwise_cons.2 ⟨?_, ih hr⟩
        intro c hc
        rcases mem_write hc with rfl | hc
        · show x < a; omega
        · exact hd c hc

/-- The memory after reset is canonical. -/
theorem reset_wf : wf State.reset.mem := List.Pairwise.nil

end Memory

namespace State

@[simp] theorem byteAt_writeByte_same (s : State) (a : Nat) (b : Byte) : (s.writeByte a b).byteAt a = b := by
  simp [byteAt]

theorem byteAt_writeByte_other (s : State) {a a' : Nat} (b : Byte) (h : a' ≠ a) :
    (s.writeByte a b).byteAt a' = s.byteAt a' := by
  simp [byteAt, Memory.read_write_other _ _ h]

/-- A word store keeps every byte outside its four. -/
theorem byteAt_storeWord_outside (s : State) (a : Nat) (v : Word) {a' : Nat} (h : a' < a ∨ a + 4 ≤ a') :
    (s.storeWord a v).byteAt a' = s.byteAt a' := by
  unfold storeWord
  rw [byteAt_writeByte_other _ _ (by omega), byteAt_writeByte_other _ _ (by omega),
    byteAt_writeByte_other _ _ (by omega), byteAt_writeByte_other _ _ (by omega)]

/-- A word store changes only the memory. -/
theorem storeWord_eq (s : State) (a : Nat) (v : Word) : s.storeWord a v = { s with mem := (s.storeWord a v).mem } := rfl

/-- A word store keeps the canonical form. -/
theorem storeWord_wf {s : State} (h : Memory.wf s.mem) (a : Nat) (v : Word) : Memory.wf (s.storeWord a v).mem :=
  Memory.write_wf (Memory.write_wf (Memory.write_wf (Memory.write_wf h _ _) _ _) _ _) _ _

/-- `OutByte` keeps the canonical form. -/
theorem outByte_wf {s : State} (h : Memory.wf s.mem) (i : Nat) (b : Byte) : Memory.wf (s.outByte i b).mem := by
  unfold outByte
  split
  · exact Memory.write_wf h _ _
  · exact h

end State

end Sys2Proof.Machine
end

