-- ==== Sys2Proof/Laws/Ops.lean ====
section
/-! SUPPORT. For each shared operation, once, everything it can do. -/

namespace Sys2Proof.Machine

namespace State

/-- ACC reads back as written (R10). -/
@[simp] theorem acc_setAcc (s : State) (v : Wide) : (s.setAcc v).acc = v := by
  refine BitVec.eq_of_getLsbD_eq fun k hk => ?_
  simp only [acc, setAcc_accHi, setAcc_accLo, BitVec.getLsbD_append, BitVec.getLsbD_extractLsb']
  by_cases h : k < 32
  · simp [h]
  · have h1 : k - 32 < 32 := by omega
    have h2 : 32 + (k - 32) = k := by omega
    simp [h, h1, h2]

/-- `OutByte` below OUT_LEN writes the byte; otherwise it raises OOVF (R65). -/
theorem outByte_cases (s : State) (i : Nat) (b : Byte) :
    (i < s.params.outLen ∧ s.outByte i b = s.writeByte (outBase + i) b) ∨
    (s.params.outLen ≤ i ∧ s.outByte i b = s.raise .oovf) := by
  unfold outByte
  split
  · exact .inl ⟨‹_›, rfl⟩
  · exact .inr ⟨by omega, rfl⟩

/-- `OutByte` changes only STATUS and the memory. -/
theorem outByte_eq (s : State) (i : Nat) (b : Byte) :
    s.outByte i b = { s with status := (s.outByte i b).status, mem := (s.outByte i b).mem } := by
  obtain ⟨-, h⟩ | ⟨-, h⟩ := outByte_cases s i b <;> rw [h] <;> rfl

/-- Writing a list of output bytes changes only STATUS and the memory. -/
theorem outBytes_eq (s : State) (i : Nat) (bs : List Byte) :
    s.outBytes i bs = { s with status := (s.outBytes i bs).status, mem := (s.outBytes i bs).mem } := by
  induction bs generalizing s i with
  | nil => rfl
  | cons b bs ih =>
    rw [outBytes, ih, outByte_eq]

/-- Output bytes leave every byte outside the OUT window alone. -/
theorem byteAt_outBytes_outside (s : State) (i : Nat) (bs : List Byte) {a : Nat} (h : inOut s.params a = false) :
    (s.outBytes i bs).byteAt a = s.byteAt a := by
  induction bs generalizing s i with
  | nil => rfl
  | cons b bs ih =>
    rw [outBytes]
    obtain ⟨hi, e⟩ | ⟨-, e⟩ := outByte_cases s (i % 2 ^ 32) b
    · rw [e, ih _ _ (by simpa using h)]
      refine byteAt_writeByte_other _ _ ?_
      rintro rfl
      simp only [inOut, Bool.and_eq_false_iff, decide_eq_false_iff_not] at h
      omega
    · rw [e, ih _ _ (by simpa using h)]
      rfl

/-- What delivery of a command word does (R66 items 1 to 3). -/
theorem deliver_cases (s : State) (w : Word) (left : Nat) :
    (∃ i, decode w = .ok i ∧ s.deliver w left =
      { s with ctrl := w, status := setFlag (clearFlag s.status .done) .busy, inFlight := some ⟨w, left⟩ }) ∨
    (∃ e, decode w = .error e ∧ s.deliver w left =
      { s with ctrl := w, status := setFlag (clearFlag s.status .done) .ill }) := by
  unfold deliver
  split
  · exact .inl ⟨_, ‹_›, rfl⟩
  · exact .inr ⟨_, ‹_›, rfl⟩

/-- What a host read does: only the transcript and the draw counter change (R41). -/
theorem hostRead_cases (s : State) (off : Offset) :
    (targetOf s.params off = none ∧ s.hostRead off = s.drawn.respond (.readError (Config.errorRead s.draws))) ∨
    (∃ t, targetOf s.params off = some t ∧ s.flag .busy = true ∧ t ≠ .reg .status ∧
      s.hostRead off = s.drawn.respond (.readOk (Config.busyRead s.draws))) ∨
    (∃ t, targetOf s.params off = some t ∧ (s.flag .busy = false ∨ t = .reg .status) ∧
      s.hostRead off = s.respond (.readOk (s.readTarget t))) := by
  unfold hostRead
  split
  · exact .inl ⟨‹_›, rfl⟩
  · next t ht =>
    split
    · next h =>
      simp only [Bool.and_eq_true, Bool.not_eq_true', beq_eq_false_iff_ne] at h
      exact .inr (.inl ⟨t, ht, h.1, h.2, rfl⟩)
    · next h =>
      simp only [Bool.and_eq_true, Bool.not_eq_true', beq_eq_false_iff_ne, not_and, not_not, ne_eq] at h
      refine .inr (.inr ⟨t, ht, ?_, rfl⟩)
      cases hb : s.flag .busy
      · exact .inl rfl
      · exact .inr (h hb)

/-- What a host write does (R42). -/
theorem hostWrite_cases (s : State) (off : Offset) (strb : Strobes) (v : Word) :
    ((targetOf s.params off = none ∨ strb ≠ 0xF#4) ∧ s.hostWrite off strb v = s.respond .writeError) ∨
    (∃ t, targetOf s.params off = some t ∧ strb = 0xF#4 ∧ s.flag .busy = true ∧
      s.hostWrite off strb v = (s.raise .wbusy).respond .writeOk) ∨
    (∃ t, targetOf s.params off = some t ∧ strb = 0xF#4 ∧ s.flag .busy = false ∧
      s.hostWrite off strb v = (s.writeTarget v t).respond .writeOk) := by
  unfold hostWrite
  split
  · exact .inl ⟨.inl ‹_›, rfl⟩
  · next t ht =>
    by_cases hs : strb = 0xF#4
    · subst hs
      cases hb : s.flag .busy
      · exact .inr (.inr ⟨t, ht, rfl, rfl, by simp⟩)
      · exact .inr (.inl ⟨t, ht, rfl, rfl, by simp⟩)
    · exact .inl ⟨.inr hs, by simp [hs]⟩

end State

end Sys2Proof.Machine
end

