-- ==== Sys2Proof/Laws/Parse.lean ====
section
/-! SUPPORT. The parse primitives touch neither the buffers nor the parameters, so the text stays the same while PARSE runs; and
a scanning loop that counts down from TXT_LEN always ends on a byte outside its class. -/

namespace Sys2Proof.Machine

/-- The text is that of the memory and the parameters alone. -/
theorem textAt_congr {s t : State} (hm : t.mem = s.mem) (hp : t.params = s.params) (hr : t.resets = s.resets) (p : Nat) :
    t.textAt p = s.textAt p := by
  simp [State.textAt, State.byteAt, hm, hp, hr]

/-- The text ends at TXT_LEN (R64). -/
theorem textAt_beyond {s : State} {p : Nat} (h : s.params.txtLen ≤ p) : s.textAt p = chNul := by
  simp [State.textAt, Nat.not_lt.2 h]

@[simp] theorem textAt_doPidig (d : Nat) (s : State) (p : Nat) : (doPidig d s).textAt p = s.textAt p :=
  textAt_congr rfl rfl rfl p

@[simp] theorem textAt_doPedig (d : Nat) (s : State) (p : Nat) : (doPedig d s).textAt p = s.textAt p :=
  textAt_congr rfl rfl rfl p

@[simp] theorem textAt_doPfdig (d : Nat) (s : State) (p : Nat) : (doPfdig d s).textAt p = s.textAt p := by
  unfold doPfdig
  split
  · exact textAt_congr rfl rfl rfl p
  · rfl

@[simp] theorem textAt_doPclr (s : State) (p : Nat) : (doPclr s).textAt p = s.textAt p :=
  textAt_congr rfl rfl rfl p

@[simp] theorem textAt_doPseed (s : State) (p : Nat) : (doPseed s).textAt p = s.textAt p :=
  textAt_congr rfl rfl rfl p

/-- The loop of `skipWhile` never stops short: with a count of TXT_LEN, and a class without 0x00, the byte it stops on is outside
the class. -/
theorem skipWhile_stops {test : Byte → Bool} (h0 : test chNul = false) (s : State) (n p : Nat)
    (hn : s.params.txtLen ≤ n + p) : test (s.textAt (skipWhile test s n p)) = false := by
  induction n generalizing p with
  | zero => simpa [skipWhile, textAt_beyond (by omega : s.params.txtLen ≤ p)] using h0
  | succ n ih =>
    unfold skipWhile
    split
    · exact ih (p + 1) (by omega)
    · next h => simpa using h

/-- `skipWhile` never goes back. -/
theorem le_skipWhile (test : Byte → Bool) (s : State) (n p : Nat) : p ≤ skipWhile test s n p := by
  induction n generalizing p with
  | zero => exact le_rfl
  | succ n ih =>
    unfold skipWhile
    split
    · exact le_trans (Nat.le_succ p) (ih (p + 1))
    · exact le_rfl

/-- With legal parameters 0x00 is no whitespace, so the whitespace loop ends in the text (R8, R64). -/
theorem isSpace_nul {p : Params} (h : p.wf = true) : isSpace p chNul = false := by
  simp only [Params.wf, Bool.and_eq_true, List.all_eq_true] at h
  simp only [isSpace, decide_eq_false_iff_not]
  intro hc
  have := h.1.2 _ hc
  simp [Params.barredFromWs, chNul] at this

/-- 0x00 is no digit. -/
theorem isDigit_nul : isDigit chNul = false := by decide

end Sys2Proof.Machine
end

