-- ==== Sys2Proof/Laws/Commands.lean ====
section
/-! SUPPORT. What the loops inside the commands can change: the frames of FMT's canonicalisation and of PARSE's scans. -/

namespace Sys2Proof.Machine

/-! ### FMT (R77) -/

/-- The strip loop changes only STATUS and the memory, and never lengthens the text. -/
theorem stripZeros_eq (n : Nat) (s : State) :
    (stripZeros n s).1 ≤ n ∧
    (stripZeros n s).2 = { s with status := (stripZeros n s).2.status, mem := (stripZeros n s).2.mem } := by
  induction n generalizing s with
  | zero => exact ⟨le_rfl, rfl⟩
  | succ n ih =>
    unfold stripZeros
    split
    · obtain ⟨h1, h2⟩ := ih (s.outByte n chNul)
      refine ⟨by omega, ?_⟩
      rw [h2, State.outByte_eq]
    · exact ⟨le_rfl, rfl⟩

/-- Canonicalisation changes only STATUS and the memory, and never lengthens the text. -/
theorem canon_eq (n : Nat) (dot : Bool) (s : State) :
    (canon n dot s).1 ≤ n ∧
    (canon n dot s).2 = { s with status := (canon n dot s).2.status, mem := (canon n dot s).2.mem } := by
  obtain ⟨h1, h2⟩ := stripZeros_eq n s
  unfold canon
  split
  · dsimp only
    split
    · refine ⟨by dsimp only; omega, ?_⟩
      dsimp only
      rw [State.outByte_eq]
      rw [h2]
    · exact ⟨h1, h2⟩
  · exact ⟨le_rfl, rfl⟩

/-! ### PARSE (R89) -/

/-- The integer scan changes only IACC and ICNT and never goes back. -/
theorem scanInteger_eq (n p : Nat) (s : State) :
    p ≤ (scanInteger n p s).1 ∧
    (scanInteger n p s).2 = { s with iacc := (scanInteger n p s).2.iacc, icnt := (scanInteger n p s).2.icnt } := by
  induction n generalizing p s with
  | zero => exact ⟨le_rfl, rfl⟩
  | succ n ih =>
    unfold scanInteger
    split
    · obtain ⟨h1, h2⟩ := ih (p + 1) (doPidig (digitValue (s.textAt p)) s)
      exact ⟨by omega, by rw [h2]; rfl⟩
    · exact ⟨le_rfl, rfl⟩

/-- PFDIG changes only FSCL and FVAL (R83). -/
theorem doPfdig_eq (d : Nat) (s : State) :
    doPfdig d s = { s with fscl := (doPfdig d s).fscl, fval := (doPfdig d s).fval } := by
  unfold doPfdig
  split <;> rfl

/-- The fraction scan changes only FSCL and FVAL and never goes back. -/
theorem scanFraction_eq (n p : Nat) (s : State) :
    p ≤ (scanFraction n p s).1 ∧
    (scanFraction n p s).2 = { s with fscl := (scanFraction n p s).2.fscl, fval := (scanFraction n p s).2.fval } := by
  induction n generalizing p s with
  | zero => exact ⟨le_rfl, rfl⟩
  | succ n ih =>
    unfold scanFraction
    split
    · obtain ⟨h1, h2⟩ := ih (p + 1) (doPfdig (digitValue (s.textAt p)) s)
      exact ⟨by omega, by rw [h2, doPfdig_eq]⟩
    · exact ⟨le_rfl, rfl⟩

/-- The exponent scan changes only EXPM and never goes back. -/
theorem scanExponent_eq (n p : Nat) (s : State) :
    p ≤ (scanExponent n p s).1 ∧ (scanExponent n p s).2 = { s with expm := (scanExponent n p s).2.expm } := by
  induction n generalizing p s with
  | zero => exact ⟨le_rfl, rfl⟩
  | succ n ih =>
    unfold scanExponent
    split
    · obtain ⟨h1, h2⟩ := ih (p + 1) (doPedig (digitValue (s.textAt p)) s)
      exact ⟨by omega, by rw [h2]; rfl⟩
    · exact ⟨le_rfl, rfl⟩

/-- An optional sign moves the cursor past at most one byte, and applies `onMinus` after a '-' only. -/
theorem takeSign_cases (onMinus : State → State) (p : Nat) (s : State) :
    (s.textAt p = chPlus ∧ takeSign onMinus p s = (p + 1, s)) ∨
    (s.textAt p = chMinus ∧ takeSign onMinus p s = (p + 1, onMinus s)) ∨
    (s.textAt p ≠ chPlus ∧ s.textAt p ≠ chMinus ∧ takeSign onMinus p s = (p, s)) := by
  unfold takeSign
  split
  · exact .inl ⟨‹_›, rfl⟩
  · split
    · exact .inr (.inl ⟨‹_›, rfl⟩)
    · exact .inr (.inr ⟨‹_›, ‹_›, rfl⟩)

/-- PFCOMB either raises DZ or adds the ratio to ACC (R84). -/
theorem doPfcomb_cases (s : State) :
    (s.fscl.toNat = 0 ∧ doPfcomb s = s.raise .dz) ∨
    (s.fscl.toNat ≠ 0 ∧
      doPfcomb s = s.setAcc (BitVec.ofNat 64 (s.acc.toNat + s.fval.toNat * 2 ^ 32 / s.fscl.toNat))) := by
  unfold doPfcomb
  split
  · exact .inl ⟨‹_›, rfl⟩
  · exact .inr ⟨‹_›, rfl⟩

/-- Emission produces at least one byte (R69). -/
theorem emitDigits_nonempty (v e : Nat) (skip : Bool) : (emitDigits v e skip).1 ≠ [] := by
  induction e generalizing v skip with
  | zero => simp [emitDigits]
  | succ e ih =>
    unfold emitDigits
    dsimp only
    split
    · exact ih v true
    · exact List.cons_ne_nil _ _

end Sys2Proof.Machine
end

