-- ==== Sys2Proof/Laws/PerInstr.lean ====
section
/-! SUPPORT. Statements about every command as syntax, one lemma per constructor. -/

namespace Sys2Proof.Laws.SelectsRow

/-- The word of a well-formed command selects the row of R56 that bears its mnemonic. -/
def Statement (i : Instr) : Prop :=
  i.wf = true → ∃ r ∈ opcodeRows, r.mnemonic = i.mnemonic ∧ r.selects (encode i) = true

theorem nop : Statement .nop := fun _ => by decide
theorem emit (e : BitVec 4) (skip : Bool) : Statement (.emit e skip) := fun _ => by revert e skip; decide
theorem fproj : Statement .fproj := fun _ => by decide
theorem fmt : Statement .fmt := fun _ => by decide
theorem pclr : Statement .pclr := fun _ => by decide
theorem pidig (d : BitVec 4) : Statement (.pidig d) := fun _ => by revert d; decide
theorem pseed : Statement .pseed := fun _ => by decide
theorem pfdig (d : BitVec 4) : Statement (.pfdig d) := fun _ => by revert d; decide
theorem pfcomb : Statement .pfcomb := fun _ => by decide
theorem pedig (d : BitVec 4) : Statement (.pedig d) := fun _ => by revert d; decide
theorem pexp : Statement .pexp := fun _ => by decide
theorem pdown (sh : Bool) : Statement (.pdown sh) := fun _ => by revert sh; decide
theorem parse (ae sh : Bool) : Statement (.parse ae sh) := fun _ => by revert ae sh; decide

end Sys2Proof.Laws.SelectsRow
end

