-- ==== Sys2Proof/Laws/Step.lean ====
section
/-! SUPPORT. What a step can do, once: a due command completes, or the host acts. -/

namespace Sys2Proof.Machine

/-- If a step answers a next state, either a due command ran and completed, or it was the host's turn. -/
theorem step_cases {s t : State} (h : step s = .next t) :
    (∃ w i u, s.inFlight = some ⟨w, 0⟩ ∧ decode w = .ok i ∧ exec i s = .next u ∧ t = u.complete) ∨
    (s.due = false ∧ t = s.hostStep) := by
  unfold step at h
  split at h
  · next w hw =>
    split at h
    · next i hi =>
      left
      cases hu : exec i s with
      | next u => rw [hu] at h; exact ⟨w, i, u, hw, hi, hu, by simpa [completing, eq_comm] using h⟩
      | fault r => rw [hu] at h; cases h
      | refused r => rw [hu] at h; cases h
    · cases h
  · next hn =>
    right
    refine ⟨?_, by simpa [eq_comm] using h⟩
    unfold State.due
    split
    · next w hw => exact absurd hw (hn w)
    · rfl

/-- When no command is due the step is the host's. -/
theorem step_of_not_due {s : State} (h : s.due = false) : step s = .next s.hostStep := by
  unfold step
  split
  · next w hw => simp [State.due, hw] at h
  · rfl

/-- The host's step with nothing pending only lets time pass. -/
theorem hostStep_nil {s : State} (h : s.inbox = []) : s.hostStep = s.tick := by
  simp [State.hostStep, h]

/-- The host's step does the oldest pending operation. -/
theorem hostStep_cons {s : State} {op : HostOp} {rest : List HostOp} (h : s.inbox = op :: rest) :
    s.hostStep = ({ s with inbox := rest }.tick).hostOp op := by
  simp [State.hostStep, h]

/-- An offset in buffer notation is the window offset of the host address it stands for (log entry 23). -/
theorem bufferOffset_eq (base j : Nat) : bufferOffset base j = windowOffset (Config.base + (base + 4 * j)) := by
  simp [bufferOffset, windowOffset]

/-- `PUTS` is the write of four bytes at its host address, where that lies in the window (R59). -/
theorem hostPUTS_eq (j : Nat) (w : Word) :
    hostPUTS j w = hostMemWrite (Config.base + (txtBase + 4 * j)) w := by
  simp [hostPUTS, hostWRBuffer, hostMemWrite, bufferOffset_eq]

end Sys2Proof.Machine
end

