-- ==== Sys2Proof/Tests/Slice0.lean ====
section
/-! SUPPORT. The model's own tests. Expected values are those of spec/95_test_vectors.md, or hand calculation from a rule; each test
names its source. The last part gives, for every statement with hypotheses, a concrete state and operands that meet them. -/

namespace Sys2Proof.Tests

open Sys2Proof Sys2Proof.Machine

/-! ### Well-formedness refuses each ill-formed term -/

theorem test_wf_refuses_emit_place_10 : (Instr.emit 10 false).wf = false := by decide
theorem test_wf_refuses_pidig_10 : (Instr.pidig 10).wf = false := by decide
theorem test_wf_refuses_pfdig_15 : (Instr.pfdig 15).wf = false := by decide
theorem test_wf_refuses_pedig_10 : (Instr.pedig 10).wf = false := by decide
theorem test_params_refuse_short_out : ({ Params.default with outLen := 12 } : Params).wf = false := by decide
theorem test_params_refuse_long_txt : ({ Params.default with txtLen := 2052 } : Params).wf = false := by decide
theorem test_params_refuse_digit_in_ws : ({ Params.default with wsSet := [0x39#8] } : Params).wf = false := by decide
theorem test_params_default_wf : Params.default.wf = true := by decide

/-! ### Decoding: one word for each constructor, written out from R54 and R56 (bits 31..15 14 13 12 11..8 7..4 3..0) -/

theorem test_decode_nop : decode 0b00000000000000000_0_0_0_0000_0000_0000#32 = .ok .nop := by decide
theorem test_decode_emit : decode 0b00000000000000000_0_0_1_0100_0000_0001#32 = .ok (.emit 4 true) := by decide
theorem test_decode_fproj : decode 0b00000000000000000_0_0_0_0000_0000_0010#32 = .ok .fproj := by decide
theorem test_decode_fmt : decode 0b00000000000000000_0_0_0_0000_0000_0011#32 = .ok .fmt := by decide
theorem test_decode_pclr : decode 0b00000000000000000_0_0_0_0000_0000_0100#32 = .ok .pclr := by decide
theorem test_decode_pidig : decode 0b00000000000000000_0_0_0_1001_0000_0101#32 = .ok (.pidig 9) := by decide
theorem test_decode_pseed : decode 0b00000000000000000_0_0_0_0000_0000_0110#32 = .ok .pseed := by decide
theorem test_decode_pfdig : decode 0b00000000000000000_0_0_0_0101_0000_0111#32 = .ok (.pfdig 5) := by decide
theorem test_decode_pfcomb : decode 0b00000000000000000_0_0_0_0000_0000_1000#32 = .ok .pfcomb := by decide
theorem test_decode_pedig : decode 0b00000000000000000_0_0_0_0010_0000_1001#32 = .ok (.pedig 2) := by decide
theorem test_decode_pexp : decode 0b00000000000000000_0_0_0_0000_0000_1010#32 = .ok .pexp := by decide
theorem test_decode_pdown : decode 0b00000000000000000_1_0_0_0000_0000_1011#32 = .ok (.pdown true) := by decide
theorem test_decode_parse : decode 0b00000000000000000_0_1_0_0000_0000_1100#32 = .ok (.parse true false) := by decide
theorem test_decode_refuses_opcode_D : decode 0x0000000D#32 = .error .reservedOpcode := by decide
theorem test_decode_refuses_skip_on_pidig : decode 0x00001005#32 = .error .fixedBitSet := by decide
theorem test_decode_refuses_arg_10 : decode 0x00001A01#32 = .error .argTooLarge := by decide
theorem test_table_word_parse : decodeTableWord 32 0x600C = some (.parse true true) := by decide
theorem test_table_word_illegal : decodeTableWord 32 0x800C = none := by decide

/-! ### Small states -/

/-- The state Exec leaves. -/
def after (i : Instr) (s : State) : State :=
  match exec i s with
  | .next t => t
  | _ => s

/-- The state a step leaves. -/
def stepped (s : State) : State :=
  match step s with
  | .next t => t
  | _ => s

/-- Reset with a text and its terminator in TXT from index `p` on, and PSTART = p. -/
def withText (p : Nat) (bs : List Byte) : State :=
  { State.reset with
    mem := (bs ++ [0x00#8]).zipIdx.map (fun (b, i) => (txtBase + p + i, b)), pstart := BitVec.ofNat 32 p }

/-- The first `n` bytes of OUT. -/
def outText (s : State) (n : Nat) : List Byte := (List.range n).map s.outAt

/-- Reset with one pending host operation. -/
def hostWith (op : HostOp) : State := { State.reset with inbox := [op] }

/-- Reset with a command accepted, due after `n` host steps, and operations pending. -/
def running (w : Word) (n : Nat) (ops : List HostOp) : State :=
  { State.reset with ctrl := w, status := 0x1#32, inFlight := some ⟨w, n⟩, inbox := ops }

/-! ### One step or one command each (95_test_vectors.md) -/

/-- 2.8: on completion of NOP STATUS is 0x02. -/
theorem test_nop_completes : (stepped (State.reset.withFetchWord 32 0x0)).status = 0x02#32 := by decide

/-- 2.3: EVAL 305, EMIT 4, 1 writes "305", OUTPTR 3. -/
theorem test_emit_suppressed :
    outText (after (.emit 4 true) { State.reset with evalReg := 305 }) 3 = [0x33, 0x30, 0x35] ∧
    (after (.emit 4 true) { State.reset with evalReg := 305 }).outptr = 3#32 := by decide

/-- 2.3: EVAL 250 at OUTPTR 15, EMIT 1, 0: 0x49 at OUT[15], the rest dropped, OUTPTR 17, DOVF and OOVF. -/
theorem test_emit_overflows :
    (after (.emit 1 false) { State.reset with evalReg := 250, outptr := 15 }).outAt 15 = 0x49#8 ∧
    (after (.emit 1 false) { State.reset with evalReg := 250, outptr := 15 }).outptr = 17#32 ∧
    (after (.emit 1 false) { State.reset with evalReg := 250, outptr := 15 }).status = 0x30#32 := by decide

/-- 2.4: 0x0002FFFF at 4 digits carries to 3. -/
theorem test_fproj_carries :
    (after .fproj { State.reset with value := 0x0002FFFF, digits := 4 }).fint = 3#32 ∧
    (after .fproj { State.reset with value := 0x0002FFFF, digits := 4 }).ffrac = 0#32 := by decide

/-- 2.4: 0x80000000 at 5 digits: FSIGN 1, FINT 32768, FFRAC 0. -/
theorem test_fproj_most_negative :
    (after .fproj { State.reset with value := 0x80000000, digits := 5 }).fsign = 1#32 ∧
    (after .fproj { State.reset with value := 0x80000000, digits := 5 }).fint = 32768#32 := by decide

/-- 2.5: -1.5 at 1 digit: "-1.5", 0x00, LEN 4. -/
theorem test_fmt_minus_one_and_a_half :
    outText (after .fmt { State.reset with value := 0xFFFE8000, digits := 1 }) 5 = [0x2D, 0x31, 0x2E, 0x35, 0x00] ∧
    (after .fmt { State.reset with value := 0xFFFE8000, digits := 1 }).len = 4#32 := by decide

/-- 2.5: 10.000 is "10": the integer '0' is not stripped, and the stripped bytes are 0x00. -/
theorem test_fmt_keeps_integer_zero :
    outText (after .fmt { State.reset with value := 0x000A0000, digits := 3 }) 7 = [0x31, 0x30, 0, 0, 0, 0, 0] ∧
    (after .fmt { State.reset with value := 0x000A0000, digits := 3 }).outptr = 2#32 := by decide

/-- 2.6: PCLR sets FSCL to 1 and clears the rest. -/
theorem test_pclr :
    after .pclr { State.reset with iacc := 5, icnt := 3, fscl := 0, expm := 9, pflags := 3, accHi := 1, pstart := 4 } =
      { State.reset with pstart := 4 } := by decide

/-- 2.6: PIDIG 7 on 12 is 127. -/
theorem test_pidig : (after (.pidig 7) { State.reset with iacc := 12, icnt := 2 }).iacc = 127#32 := by decide

/-- 2.6: PIDIG 6 on 429496729 wraps to 0, ICNT 10. -/
theorem test_pidig_wraps :
    (after (.pidig 6) { State.reset with iacc := 429496729, icnt := 9 }).iacc = 0#32 ∧
    (after (.pidig 6) { State.reset with iacc := 429496729, icnt := 9 }).icnt = 10#32 := by decide

/-- 2.6: PSEED of 3. -/
theorem test_pseed :
    (after .pseed { State.reset with iacc := 3, accHi := 0xFFFFFFFF, accLo := 0xFFFFFFFF }).acc =
      0x0000000300000000#64 := by decide

/-- 2.6: PFDIG 9 reaches the cap. -/
theorem test_pfdig_to_cap :
    (after (.pfdig 9) { State.reset with fval := 1234567, fscl := 10000000 }).fval = 12345679#32 ∧
    (after (.pfdig 9) { State.reset with fval := 1234567, fscl := 10000000 }).fscl = 100000000#32 := by decide

/-- 2.6: PFDIG 9 at the cap changes nothing. -/
theorem test_pfdig_at_cap :
    (after (.pfdig 9) { State.reset with fval := 12345678, fscl := 100000000 }).fval = 12345678#32 := by decide

/-- 2.6: PFCOMB of 1/3 is 0x55555555, floor. -/
theorem test_pfcomb_third : (after .pfcomb { State.reset with fval := 1, fscl := 3 }).acc = 0x55555555#64 := by decide

/-- 2.6: PFCOMB with FSCL = 0 raises DZ and leaves ACC. -/
theorem test_pfcomb_dz :
    (after .pfcomb { State.reset with accHi := 5, fval := 5, fscl := 0 }).acc = 0x0000000500000000#64 ∧
    (after .pfcomb { State.reset with accHi := 5, fval := 5, fscl := 0 }).status = 0x40#32 := by decide

/-- 2.6: PEDIG 2 on 1 is 12. -/
theorem test_pedig : (after (.pedig 2) { State.reset with expm := 1 }).expm = 12#32 := by decide

/-- 2.6: PEXP of 1 at EXPM 63 is 2^63, that is 10^63 mod 2^64. -/
theorem test_pexp_63 : (after .pexp { State.reset with accLo := 1, expm := 63 }).acc = 0x8000000000000000#64 := by
  decide +kernel

/-- 2.6: PEXP of 2^64 - 1 down by 10^19 is 1. -/
theorem test_pexp_down_19 :
    (after .pexp { State.reset with accHi := 0xFFFFFFFF, accLo := 0xFFFFFFFF, expm := 19, pflags := 2 }).acc = 1#64 := by
  decide

/-- 2.6: PDOWN 0 of 150.0 with NEG. -/
theorem test_pdown_neg :
    (after (.pdown false) { State.reset with accHi := 0x96, pflags := 1 }).result = 0xFF6A0000#32 := by decide

/-- 2.6: PDOWN 1 with NEAREST_UP rounds 1.5 up. -/
theorem test_pdown_shift_nearest :
    (after (.pdown true) { State.reset with
      params := { Params.default with downcvtRound := .nearestUp }, accHi := 1, accLo := 0x80000000 }).result = 2#32 := by
  decide

/-- 2.7: " -12.5e1" with AEXP is -125.0, PEND 8. -/
theorem test_parse_exponent :
    (after (.parse true false) (withText 0 [0x20, 0x2D, 0x31, 0x32, 0x2E, 0x35, 0x65, 0x31])).result = 0xFF830000#32 ∧
    (after (.parse true false) (withText 0 [0x20, 0x2D, 0x31, 0x32, 0x2E, 0x35, 0x65, 0x31])).pend = 8#32 := by decide

/-- 1, S12: ".5" is 0 and PEND is PSTART. -/
theorem test_parse_fraction_only :
    (after (.parse false false) (withText 2 [0x2E, 0x35])).result = 0#32 ∧
    (after (.parse false false) (withText 2 [0x2E, 0x35])).pend = 2#32 := by decide

/-! ### The host port and reset (2.8) -/

/-- A read of ID. -/
theorem test_read_id : (stepped (hostWith (.rd 0x008))).responses = [.readOk 0x46580107#32] := by decide

/-- A write with partial strobes is refused and leaves VALUE. -/
theorem test_partial_strobes : stepped (hostWith (.wr 0x010 0x3 5)) = { State.reset with responses := [.writeError] } := by
  decide

/-- A write of PFLAGS keeps bits 1:0 only. -/
theorem test_write_pflags : (stepped (hostWith (hostWR .pflags 0xFFFFFFFF))).pflags = 3#32 := by decide

/-- An illegal word: CTRL takes it, STATUS 0x02 becomes 0x04. -/
theorem test_illegal_word :
    (stepped { hostWith (hostWR .ctrl 0x0000000D) with status := 0x02 }).status = 0x04#32 ∧
    (stepped { hostWith (hostWR .ctrl 0x0000000D) with status := 0x02 }).ctrl = 0x0000000D#32 := by decide

/-- A write while busy is dropped, sets WBUSY, and the command goes on. -/
theorem test_busy_write :
    (stepped (running 0x0 1 [hostWR .value 5])).status = 0x09#32 ∧
    (stepped (stepped (running 0x0 1 [hostWR .value 5]))).status = 0x0A#32 ∧
    (stepped (running 0x0 1 [hostWR .value 5])).value = 0#32 := by decide

/-- CLRSTAT clears 0x32. -/
theorem test_clrstat : (stepped { hostWith hostCLRSTAT with status := 0x32 }).status = 0#32 := by decide

/-- R59: PUTS 15 writes at 0x83C; the last offset of the window is that of j = 511, and j = 512 is no access to FXDP. -/
theorem test_puts :
    hostPUTS 15 7 = some (.wr 0x83C 0xF 7) ∧ hostPUTS 511 7 = some (.wr 0xFFC 0xF 7) ∧ hostPUTS 512 7 = none := by decide

/-- R46: after "-1.5" the word at 0x100 reads 0x352E312D. -/
theorem test_out_word_little_endian :
    (after .fmt { State.reset with value := 0xFFFE8000, digits := 1 }).loadWord 0x100 = 0x352E312D#32 := by decide

/-- R113: a reset abandons a running command. -/
theorem test_reset_abandons :
    (stepped { running 0x705 3 [.reset] with iacc := 9 }).inFlight = none ∧
    (stepped { running 0x705 3 [.reset] with iacc := 9 }).iacc = 0#32 := by decide

end Sys2Proof.Tests
end

