-- ==== Sys2Proof/Tests/Witnesses.lean ====
section
/-! SUPPORT. For every statement with hypotheses, a concrete state and operands that meet them all together; where a statement
has several clauses over one input, one for each clause at the edge of its range. -/

namespace Sys2Proof.Tests

open Sys2Proof Sys2Proof.Machine

/-! ### Encoding -/

theorem witness_DecodeOfEncode : (Instr.emit 9 true).wf = true := by decide

theorem witness_EncodeOfDecode : decode 0x00001901#32 = .ok (.emit 9 true) := by decide

theorem witness_LegalIffSelectsOneRow :
    decode 0x00000905#32 = .ok (.pidig 9) ∧ (⟨"PIDIG", 0x00000005#32, 0xFFFFF0FF#32, true⟩ : OpcodeRow) ∈ opcodeRows ∧
    OpcodeRow.selects ⟨"PIDIG", 0x00000005#32, 0xFFFFF0FF#32, true⟩ 0x00000905#32 = true := by decide

/-! ### The command cycle -/

theorem witness_StepRunsLatchedCommand :
    (running 0x705 0 []).inFlight = some ⟨0x705, 0⟩ ∧ decode 0x705 = .ok (.pidig 7) ∧
    exec (.pidig 7) (running 0x705 0 []) = .next (doPidig 7 (running 0x705 0 [])) := ⟨by decide, by decide, rfl⟩

theorem witness_CompletionSetsDone :
    (running 0x0 0 []).inFlight = some ⟨0x0, 0⟩ ∧ decode 0x0 = .ok .nop ∧
    exec .nop (running 0x0 0 []) = .next (running 0x0 0 []) := ⟨by decide, by decide, rfl⟩

theorem witness_CtrlWriteAcceptsLegalWord :
    (hostWith (.wr 0 0xF 0x00001401)).inFlight = none ∧ (hostWith (.wr 0 0xF 0x00001401)).flag .busy = false ∧
    legalByRows 0x00001401 = true ∧ (hostWith (.wr 0 0xF 0x00001401)).inbox = .wr 0x000#12 0xF#4 0x00001401 :: [] := by
  decide

theorem witness_CtrlWriteRejectsIllegalWord :
    ((hostWith (.wr 0 0xF 0xD)).inFlight = none ∧ (hostWith (.wr 0 0xF 0xD)).flag .busy = false ∧
      legalByRows 0xD = false ∧ (hostWith (.wr 0 0xF 0xD)).inbox = .wr 0x000#12 0xF#4 0xD :: []) ∧
    0xD ≤ (0xD#32).toNat % 16 ∧ ((0xA05#32).toNat % 16 ∈ [0x1, 0x5, 0x7, 0x9] ∧ 9 < (0xA05#32).toNat / 256 % 16) ∧
    ((⟨"NOP", 0, 0xFFFFFFFF, false⟩ : OpcodeRow) ∈ opcodeRows ∧ (0x2000#32).toNat % 16 = (0#32).toNat % 16 ∧
      0x2000#32 &&& 0xFFFFFFFF#32 ≠ 0#32) := by decide

theorem witness_BusyHostStepsTouchOnlyWbusy :
    (running 0x3 1 [hostWR .value 5]).inFlight = some ⟨0x3, 0 + 1⟩ ∧
    (running 0x3 1 [hostWR .value 5]).flag .busy = true ∧
    (running 0x3 1 [hostWR .value 5]).inbox.head? ≠ some .reset := by decide

theorem witness_ExecIgnoresThePort :
    SameButPort (running 0x3 0 []) { running 0x3 0 [.idle] with status := 0x9#32, draws := 4 } := rfl

theorem witness_CommandComputesFromAcceptance :
    (running 0x3 2 [hostWR .ctrl 0x4]).inFlight = some ⟨0x3, 2⟩ ∧ (running 0x3 2 [hostWR .ctrl 0x4]).flag .busy = true ∧
    decode 0x3 = .ok .fmt ∧ HostOp.reset ∉ (running 0x3 2 [hostWR .ctrl 0x4]).inbox := by decide

theorem witness_WaitEndsWhenCommandCompletes :
    (running 0xA 3 [.wait, hostRD .result]).inFlight = some ⟨0xA, 3⟩ ∧
    (running 0xA 3 [.wait, hostRD .result]).flag .busy = true ∧ decode 0xA = .ok .pexp ∧
    (running 0xA 3 [.wait, hostRD .result]).inbox = .wait :: [hostRD .result] := by decide

/-! ### The host port -/

theorem witness_WindowAtBase :
    windowOffset (Config.base + 4095) = some 0xFFF#12 ∧ Config.base + 4096 ≤ Config.base + 4096 := by
  refine ⟨?_, le_rfl⟩
  simp [windowOffset]

/-- Edges of the map at the defaults: the last word of each window is legal, the next is not, nor a hole or a misaligned
offset. -/
theorem witness_LegalOffset :
    LegalOffset .default 0x09C ∧ ¬ LegalOffset .default 0x0A0 ∧ LegalOffset .default 0x10C ∧ ¬ LegalOffset .default 0x110 ∧
    LegalOffset .default 0x83C ∧ ¬ LegalOffset .default 0x840 ∧ ¬ LegalOffset .default 0x00C ∧
    ¬ LegalOffset .default 0x002 := by
  unfold LegalOffset
  decide

theorem witness_AddressMap :
    (Reg.scaleTbl 7, 0x09C) ∈ registerMap ∧ LegalOffset .default (0x10C#12).toNat ∧ 0x100 ≤ (0x10C#12).toNat ∧
    LegalOffset .default (0x83C#12).toNat := by
  unfold LegalOffset
  decide

theorem witness_BadAccessHasNoEffect :
    ((running 0x3 1 [.rd 0x110]).due = false ∧ (running 0x3 1 [.rd 0x110]).inbox = .rd 0x110 :: [] ∧
      ¬ LegalOffset (running 0x3 1 [.rd 0x110]).params (0x110#12).toNat) ∧
    ((hostWith (.wr 0x002 0xF 1)).due = false ∧ (hostWith (.wr 0x002 0xF 1)).inbox = .wr 0x002 0xF 1 :: [] ∧
      ¬ LegalOffset (hostWith (.wr 0x002 0xF 1)).params (0x002#12).toNat) ∧
    ((hostWith (.wr 0x010 0x7 1)).inbox = .wr 0x010 0x7 1 :: [] ∧ (0x7#4) ≠ 0xF#4) := by
  unfold LegalOffset
  decide

theorem witness_HostReadAnswers :
    ((hostWith (.rd 0x840)).due = false ∧ (hostWith (.rd 0x840)).inbox = .rd 0x840 :: [] ∧
      ¬ LegalOffset (hostWith (.rd 0x840)).params (0x840#12).toNat) ∧
    ((running 0x3 1 [.rd 0x048]).due = false ∧ LegalOffset (running 0x3 1 [.rd 0x048]).params (0x048#12).toNat ∧
      (running 0x3 1 [.rd 0x048]).flag .busy = true ∧ (0x048#12).toNat ≠ 4) ∧
    ((running 0x3 1 [.rd 0x004]).due = false ∧ LegalOffset (running 0x3 1 [.rd 0x004]).params (0x004#12).toNat ∧
      (0x004#12).toNat = Reg.status.offset) ∧
    ((hostWith (.rd 0x10C)).due = false ∧ LegalOffset (hostWith (.rd 0x10C)).params (0x10C#12).toNat ∧
      (hostWith (.rd 0x10C)).flag .busy = false ∧ 0x100 ≤ (0x10C#12).toNat) := by
  unfold LegalOffset
  decide

theorem witness_BusyWriteIsDropped :
    (running 0x3 1 [.wr 0x83C 0xF 7]).due = false ∧ (running 0x3 1 [.wr 0x83C 0xF 7]).flag .busy = true ∧
    LegalOffset (running 0x3 1 [.wr 0x83C 0xF 7]).params (0x83C#12).toNat ∧
    (running 0x3 1 [.wr 0x83C 0xF 7]).inbox = .wr 0x83C 0xF#4 7 :: [] := by
  unfold LegalOffset
  decide

/-- A state that is reached while FMT runs meets the invariant. -/
theorem witness_running_inv : (running 0x3 1 [hostWR .value 5]).Inv where
  params_wf := by decide
  mem_wf := List.Pairwise.nil
  mem_in_windows := by intro c hc; cases hc
  status_reserved := by
    intro k hk
    show (0x1#32).getLsbD k = false
    rw [BitVec.getLsbD_one]
    simp only [Bool.and_eq_false_iff, decide_eq_false_iff_not]
    omega
  pflags_reserved := by intro k _; exact BitVec.getLsbD_zero
  busy_iff_latched := by decide
  latched_legal := by
    intro f hf
    obtain rfl : f = ⟨0x3, 1⟩ := by simpa [running, eq_comm] using hf
    exact ⟨.fmt, by decide⟩
  latched_in_ctrl := by
    intro f hf
    obtain rfl : f = ⟨0x3, 1⟩ := by simpa [running, eq_comm] using hf
    rfl
  busy_not_done := by decide

theorem witness_RegisterWriteRights :
    ((hostWith (hostWR .len 5)).inFlight = none ∧ (hostWith (hostWR .len 5)).flag .busy = false ∧
      (hostWith (hostWR .len 5)).inbox = .wr (BitVec.ofNat 12 Reg.len.offset) 0xF#4 5 :: [] ∧
      Reg.len ∈ [Reg.id, .len, .fsign, .fint, .ffrac, .fscale, .pend, .result]) ∧
    ((hostWith (hostWR .pflags 7)).inbox = .wr (BitVec.ofNat 12 Reg.pflags.offset) 0xF#4 7 :: [] ∧
      (hostWith (hostWR .pflags 7)).flag .busy = false ∧
      Reg.pflags ∈ [Reg.value, .digits, .evalReg, .outptr, .pstart, .pflags, .iacc, .icnt, .fval, .fscl, .expm, .accLo, .accHi]) ∧
    (hostWith (hostWR .status 7)).inbox = .wr (BitVec.ofNat 12 Reg.status.offset) 0xF#4 7 :: [] ∧
    (hostWith (hostWR (.scaleTbl 7) 7)).inbox = .wr (BitVec.ofNat 12 (Reg.scaleTbl 7).offset) 0xF#4 7 :: [] ∧
    ∃ s : State, s.Inv :=
  ⟨by decide, by decide, by decide, by decide, _, witness_running_inv⟩

theorem witness_StatusWriteClearsWrittenBits :
    (hostWith (.wr 0x004 0xF 0x7E)).inFlight = none ∧ (hostWith (.wr 0x004 0xF 0x7E)).flag .busy = false ∧
    (hostWith (.wr 0x004 0xF 0x7E)).inbox = .wr 0x004#12 0xF#4 0x7E :: [] := by decide

theorem witness_BufferWordsAreLittleEndian :
    ({ State.reset with inbox := [.wr 0x83C 0xF 7, .rd 0x83C] } : State).flag .busy = false ∧
    LegalOffset ({ State.reset with inbox := [.wr 0x83C 0xF 7, .rd 0x83C] } : State).params (0x83C#12).toNat ∧
    0x100 ≤ (0x83C#12).toNat ∧
    ({ State.reset with inbox := [.wr 0x83C 0xF 7, .rd 0x83C] } : State).inFlight = none ∧
    ({ State.reset with inbox := [.wr 0x83C 0xF 7, .rd 0x83C] } : State).inbox =
      .wr (0x83C#12) 0xF#4 7 :: .rd (0x83C#12) :: [] := by
  unfold LegalOffset
  decide

/-! ### Reset and the whole-machine rules -/

theorem witness_ResetEventRestoresReset :
    (running 0x3 5 [.reset, .idle]).due = false ∧ (running 0x3 5 [.reset, .idle]).inbox = .reset :: [.idle] := by decide

theorem witness_StepKeepsInv :
    (running 0x3 1 [hostWR .value 5]).Inv ∧
    step (running 0x3 1 [hostWR .value 5]) = .next (running 0x3 1 [hostWR .value 5]).hostStep :=
  ⟨witness_running_inv, rfl⟩

/-- Every result at the end of its range, before an FPROJ. -/
def rangeEnd : State :=
  { running 0x2 0 [] with fint := 32768, fscale := 100000, ffrac := 99999, fsign := 1, len := 12 }

theorem witness_StepKeepsResultRanges :
    rangeEnd.ResultRanges ∧ step rangeEnd = .next (writeProjection rangeEnd rangeEnd.projection).complete :=
  ⟨⟨by decide, by decide, by decide, by decide⟩, rfl⟩

theorem witness_NeverStops : ∃ s : State, s.Inv ∧ s.flag .busy = true := ⟨_, witness_running_inv, by decide⟩

theorem witness_FlagsAreSticky :
    (∃ t, Flag.dz ∈ [Flag.ill, .wbusy, .dovf, .oovf, .dz] ∧
      step { hostWith (.wr 0x004 0xF 0x40) with status := 0x40 } = .next t ∧
      ({ hostWith (.wr 0x004 0xF 0x40) with status := 0x40 } : State).flag .dz = true ∧ t.flag .dz = false) ∧
    (∃ t, (hostWith (.wr 0x000 0xF 0xE)).due = false ∧ (hostWith (.wr 0x000 0xF 0xE)).flag .busy = false ∧
      (hostWith (.wr 0x000 0xF 0xE)).inbox = .wr 0x000#12 0xF#4 0xE :: [] ∧ step (hostWith (.wr 0x000 0xF 0xE)) = .next t) ∧
    (∃ t, (hostWith .reset).due = false ∧ (hostWith .reset).inbox = .reset :: [] ∧ step (hostWith .reset) = .next t) :=
  ⟨⟨_, by decide, rfl, by decide, by decide⟩, ⟨_, by decide, by decide, by decide, rfl⟩, ⟨_, by decide, by decide, rfl⟩⟩

theorem witness_CommandsWriteOnlyTheirOwn :
    exec .pclr State.reset = .next State.reset ∧ (∀ e k, Instr.pclr ≠ .emit e k) ∧ Instr.pclr ≠ .fmt ∧
    inOut State.reset.params 0x110 = false ∧ inOut State.reset.params 0xFF = false := by
  refine ⟨rfl, ?_, by decide, by decide, by decide⟩
  intro e k h
  cases h

theorem witness_ExecReadsNoForeignBytes :
    State.reset.params.wf = true ∧ (∃ ae sh, Instr.parse true false = .parse ae sh) ∧
    ∀ j, ({ State.reset with mem := [(0x10F, 0x41#8)] } : State).textAt j = State.reset.textAt j := by
  refine ⟨by decide, ⟨_, _, rfl⟩, fun j => ?_⟩
  have h : (0x10F : Nat) ≠ 0x800 + j := by omega
  simp [State.textAt, State.byteAt, State.reset, Memory.read, txtBase, h]

/-! ### The commands -/

theorem witness_NopDoesNothing :
    ((0x10#32).toNat % 16 = 0 ∧ 0x10#32 ≠ 0#32) ∧ (running 0x0 0 []).inFlight = some ⟨0x00000000#32, 0⟩ := by decide

theorem witness_EmitDigitsProperties :
    emitDigits 305 4 true = ([0x33#8, 0x30#8, 0x35#8], false) ∧ 305 < 10 ^ (4 + 1) ∧
    emitDigits 123 1 false = ([0x3C#8, 0x33#8], true) ∧ 10 ^ (1 + 1) ≤ 123 ∧
    emitDigits 12005 3 true = ([0x3C#8, 0x30#8, 0x30#8, 0x35#8], true) ∧ emitDigits 10 0 true = ([0x3A#8], true) ∧
    emitDigits 99 1 false = ([0x39#8, 0x39#8], false) ∧ 99 < 10 ^ (1 + 1) := by decide

/-- The indices of EMIT on both sides of OUT_LEN, and past the wrap. -/
theorem witness_EmitRendersEval :
    (emitDigits 305 4 true).1[1]? = some 0x30#8 ∧ (14 + 1) % 2 ^ 32 < 16 ∧ 16 ≤ (14 + 2) % 2 ^ 32 ∧
    (0xFFFFFFFE + 2) % 2 ^ 32 < 16 := by decide

theorem witness_DovfOnlyFromEmit :
    (∀ e k, Instr.nop ≠ .emit e k) ∧ exec .nop State.reset = .next State.reset :=
  ⟨(by intro e k h; cases h), rfl⟩

theorem witness_FprojProjectsValue : (0x102#32).toNat % 16 = 2 ∧ 0x102#32 ≠ 2#32 := by decide

/-- The carry threshold of scale 10 and the value just below it. -/
theorem witness_ProjectRanges :
    (project .nearestUp 0xF334 1).ip = magnitude 0xF334 / 65536 + 1 ∧
    (project .nearestUp 0xF333 1).ip ≠ magnitude 0xF333 / 65536 + 1 := by decide

theorem witness_ProjectionRoundsToNearest : State.reset.params.fracMulRound = .nearestUp := by decide

theorem witness_FmtWritesCanonicalText : State.reset.params.wf = true := by decide

theorem witness_FmtTextProperties :
    State.reset.params.wf = true ∧ ({ State.reset with digits := 8 } : State).digits.toNat % 8 = 0 ∧
    0 < (after .fmt { State.reset with digits := 8 }).len.toNat ∧
    (after .fmt { State.reset with value := 0x14000, digits := 2 }).outAt 1 = chDot ∧
    1 < (after .fmt { State.reset with value := 0x14000, digits := 2 }).len.toNat := by decide

theorem witness_PclrClearsWorkingState :
    ((0x14#32).toNat % 16 = 4 ∧ 0x14#32 ≠ 4#32) ∧ (running 0x4 0 []).inFlight = some ⟨0x00000004#32, 0⟩ := by decide

theorem witness_PidigAccumulatesDigit : (9#4).toNat ≤ 9 ∧ 9 < (10#4).toNat := by decide

theorem witness_PseedSeedsAccumulator : (0x106#32).toNat % 16 = 6 ∧ 0x106#32 ≠ 6#32 := by decide

/-- FSCL on both sides of the cap. -/
theorem witness_PfdigAccumulatesUnderCap :
    (9#4).toNat ≤ 9 ∧ 9 < (15#4).toNat ∧
    ({ State.reset with fscl := 99999999 } : State).fscl.toNat < 100000000 ∧
    100000000 ≤ ({ State.reset with fscl := 100000000 } : State).fscl.toNat := by decide

theorem witness_PfcombAddsExactRatio :
    ((0x18#32).toNat % 16 = 8 ∧ 0x18#32 ≠ 8#32) ∧ ({ State.reset with fscl := 0 } : State).fscl = 0 ∧
    State.reset.fscl ≠ 0 := by decide

theorem witness_PedigAccumulatesExponent : (9#4).toNat ≤ 9 ∧ 9 < (10#4).toNat := by decide

theorem witness_PexpRepeatsTenStep : (0x1A#32).toNat % 16 = 10 ∧ 0x1A#32 ≠ 10#32 := by decide

theorem witness_PexpClosedForm :
    State.reset.pflags.getLsbD 1 = false ∧ 64 ≤ ({ State.reset with expm := 64 } : State).expm.toNat ∧
    ({ State.reset with pflags := 2, expm := 20 } : State).pflags.getLsbD 1 = true ∧
    20 ≤ ({ State.reset with pflags := 2, expm := 20 } : State).expm.toNat := by decide

theorem witness_PdownConvertsAccumulator :
    ((0x200B#32).toNat % 16 = 11 ∧ 0x200B#32 ≠ 0xB#32 ∧ 0x200B#32 ≠ 0x400B#32) ∧
    State.reset.pflags.getLsbD 0 = false ∧ ({ State.reset with pflags := 1 } : State).pflags.getLsbD 0 = true := by decide

theorem witness_ParseWritesOnlyParseState : State.reset.params.wf = true := by decide

/-- A text that is stored, byte by byte, is the text read. -/
theorem textAt_of_bytes (s : State) (p : Nat) (bs : List Byte)
    (h : (List.range bs.length).all (fun j => bs[j]? == some (s.textAt (p + j))) = true) : TextAt s p bs := by
  intro j c hc
  have hj : j < bs.length := (List.getElem?_eq_some_iff.1 hc).1
  have := List.all_eq_true.1 h j (List.mem_range.2 hj)
  simp only [hc, beq_iff_eq, Option.some.injEq] at this
  exact this.symm

/-- " -x" and "x": with a sign, and without one. -/
theorem witness_ParseWithoutIntegerDigitsGivesZero :
    (withText 1 [0x20, 0x2D, 0x78]).params.wf = true ∧
    [0x20#8].all (isSpace (withText 1 [0x20, 0x2D, 0x78]).params) = true ∧
    TextAt (withText 1 [0x20, 0x2D, 0x78]) (withText 1 [0x20, 0x2D, 0x78]).pstart.toNat ([0x20] ++ signBytes (some true)) ∧
    (withText 1 [0x20, 0x2D, 0x78]).textAt
      ((withText 1 [0x20, 0x2D, 0x78]).pstart.toNat + [0x20#8].length + (signBytes (some true)).length) = 0x78#8 ∧
    isDigit 0x78#8 = false ∧
    (withText 0 [0x78]).textAt ((withText 0 [0x78]).pstart.toNat + ([] : List Byte).length + (signBytes none).length) = 0x78#8 ∧
    (isSpace (withText 0 [0x78]).params 0x78#8 = false ∧ (0x78#8) ≠ chPlus ∧ (0x78#8) ≠ chMinus) :=
  ⟨by decide, by decide, textAt_of_bytes _ _ _ (by decide), by decide, by decide, by decide, by decide⟩

/-- " -12.5e1". -/
def sampleText : NumText where
  ws := [0x20]
  sign := some true
  ints := [1, 2]
  frac := some (0x2E, [5])
  exp := some (0x65, none, [1])
  extra := []

/-- "3.141592653" followed by "e": the ninth digit is consumed and ignored, and the marker after it is not recognised. -/
def longText : NumText where
  ws := []
  sign := none
  ints := [3]
  frac := some (0x2E, [1, 4, 1, 5, 9, 2, 6, 5])
  exp := none
  extra := [3]

theorem witness_ParseComputesValue_extra :
    longText.ok (withText 0 (longText.bytes ++ [0x65])).params true = true ∧
    TextAt (withText 0 (longText.bytes ++ [0x65])) (withText 0 (longText.bytes ++ [0x65])).pstart.toNat longText.bytes ∧
    longText.stopsAt (withText 0 (longText.bytes ++ [0x65])).params true
      ((withText 0 (longText.bytes ++ [0x65])).textFrom longText.bytes.length) = true :=
  ⟨by decide, textAt_of_bytes _ _ _ (by decide), by decide⟩

/-- "2.5" followed by "e-x", with EXP_BACKTRACK = true: the marker is given back. -/
def backText : NumText where
  ws := []
  sign := none
  ints := [2]
  frac := some (0x2E, [5])
  exp := none
  extra := []

/-- The state that holds it. -/
def backState : State :=
  { withText 0 (backText.bytes ++ [0x65, 0x2D, 0x78]) with params := { Params.default with expBacktrack := true } }

theorem witness_ParseComputesValue_backtrack :
    backState.params.wf = true ∧ backText.ok backState.params true = true ∧
    TextAt backState backState.pstart.toNat backText.bytes ∧
    backText.stopsAt backState.params true (backState.textFrom (backState.pstart.toNat + backText.bytes.length)) = true ∧
    isExpMark (backState.textFrom (backState.pstart.toNat + backText.bytes.length) 0) = true :=
  ⟨by decide, by decide, textAt_of_bytes _ _ _ (by decide), by decide, by decide⟩

/-- R89 step 7: EXP_BACKTRACK = true gives "e-" back: PEND 3, EXPNEG clear, EXPM 0, and the value is 2.5. -/
theorem test_parse_gives_marker_back :
    (after (.parse true false) backState).pend = 3#32 ∧ (after (.parse true false) backState).pflags = 0#32 ∧
    (after (.parse true false) backState).expm = 0#32 ∧ (after (.parse true false) backState).result = 0x00028000#32 := by
  decide

theorem witness_ParseComputesValue :
    (withText 0 sampleText.bytes).params.wf = true ∧ sampleText.ok (withText 0 sampleText.bytes).params true = true ∧
    TextAt (withText 0 sampleText.bytes) (withText 0 sampleText.bytes).pstart.toNat sampleText.bytes ∧
    sampleText.stopsAt (withText 0 sampleText.bytes).params true
      ((withText 0 sampleText.bytes).textFrom ((withText 0 sampleText.bytes).pstart.toNat + sampleText.bytes.length)) = true :=
  ⟨by decide, by decide, textAt_of_bytes _ _ _ (by decide), by decide⟩

/-- "5" at the last index of TXT, and "-5" at the two last: all text beyond is 0x00. -/
theorem witness_ParseNegatesAfterMinus :
    ∃ s s' : State, s.params.wf = true ∧ s'.params = s.params ∧ isDigit (s.textAt s.pstart.toNat) = true ∧
      s'.textAt s'.pstart.toNat = chMinus ∧
      ∀ j, s'.textAt (s'.pstart.toNat + 1 + j) = s.textAt (s.pstart.toNat + j) := by
  refine ⟨{ State.reset with mem := [(0x83F, 0x35#8)], pstart := 63 },
    { State.reset with mem := [(0x83E, 0x2D#8), (0x83F, 0x35#8)], pstart := 62 },
    by decide, rfl, by decide, by decide, fun j => ?_⟩
  cases j with
  | zero => decide
  | succ j =>
    rw [textAt_beyond (by show 64 ≤ 62 + 1 + (j + 1); omega), textAt_beyond (by show 64 ≤ 63 + (j + 1); omega)]

theorem witness_PrimitiveSequenceEqualsParse :
    State.reset.params = (withText 0 sampleText.bytes).params ∧ (withText 0 sampleText.bytes).params.wf = true ∧
    sampleText.ok (withText 0 sampleText.bytes).params true = true ∧
    TextAt (withText 0 sampleText.bytes) (withText 0 sampleText.bytes).pstart.toNat sampleText.bytes ∧
    sampleText.stopsAt (withText 0 sampleText.bytes).params true
      ((withText 0 sampleText.bytes).textFrom ((withText 0 sampleText.bytes).pstart.toNat + sampleText.bytes.length)) = true :=
  ⟨by decide, by decide, by decide, textAt_of_bytes _ _ _ (by decide), by decide⟩

/-! ### Between commands -/

theorem witness_IdleKeepsEverything :
    (State.reset.inFlight = none ∧ State.reset.flag .busy = false ∧ State.reset.inbox = []) ∧
    ((hostWith .idle).inFlight = none ∧ (hostWith .idle).flag .busy = false ∧ (hostWith .idle).inbox = .idle :: []) ∧
    ((hostWith (.rd 0x110)).inFlight = none ∧ (hostWith (.rd 0x110)).flag .busy = false ∧
      (hostWith (.rd 0x110)).inbox = .rd 0x110 :: []) ∧
    ((hostWith .wait).inFlight = none ∧ (hostWith .wait).flag .busy = false ∧ (hostWith .wait).inbox = .wait :: []) ∧
    ∃ s t : State, s.inFlight = none ∧ s.flag .busy = false ∧ step s = .next t ∧ t.status ≠ s.status :=
  ⟨by decide, by decide, by decide, by decide, { hostWith (hostWR .status 2) with status := 2 }, _, by decide, by decide, rfl,
    by decide⟩

end Sys2Proof.Tests
end

section
/-! What a host write of a register does while idle: the target of a register's offset, the register file after the
write, and the register access rights of R17. -/

namespace Sys2Proof.Machine

/-! ### The bits of the write masks (R19, R30) -/

/-- PFLAGS has the bits 0 and 1 (R30). -/
theorem getLsbD_pflagsMask (k : Nat) : pflagsMask.getLsbD k = decide (k < 2) := by
  have hmask : pflagsMask = (BitVec.allOnes 2).setWidth 32 := by decide
  rw [hmask, BitVec.getLsbD_setWidth, BitVec.getLsbD_allOnes, Bool.and_eq_right_iff_imp]
  simp only [decide_eq_true_eq]
  omega

/-- The W1C bits of STATUS are the bits 1 to 6 (R19). -/
theorem getLsbD_w1cMask (k : Nat) : w1cMask.getLsbD k = decide (1 ≤ k ∧ k ≤ 6) := by
  have hmask : w1cMask = (BitVec.allOnes 6).setWidth 32 <<< 1 := by decide
  rw [hmask, BitVec.getLsbD_shiftLeft, BitVec.getLsbD_setWidth, BitVec.getLsbD_allOnes, Bool.eq_iff_iff]
  simp only [Bool.and_eq_true, Bool.not_eq_true', decide_eq_true_eq, decide_eq_false_iff_not]
  omega

/-- A host write of STATUS clears the W1C bits that are written as 1, and no other (R19). -/
theorem getLsbD_w1cWrite (old v : Word) (k : Nat) :
    (w1cWrite old v).getLsbD k = (old.getLsbD k && !(decide (1 ≤ k ∧ k ≤ 6) && v.getLsbD k)) := by
  by_cases hk : k < 32
  · simp only [w1cWrite, BitVec.getLsbD_and, BitVec.getLsbD_not, getLsbD_w1cMask, hk, decide_true, Bool.true_and,
      Bool.and_comm (v.getLsbD k)]
  · rw [BitVec.getLsbD_of_ge _ k (by omega), BitVec.getLsbD_of_ge old k (by omega), Bool.false_and]

/-! ### The host's write of a register while idle (R42) -/

/-- Every register is the target of its own offset (R16). -/
@[simp] theorem targetOf_regOffset (p : Params) (g : Reg) :
    targetOf p (BitVec.ofNat 12 g.offset) = some (.reg g) := by
  cases g with
  | scaleTbl k => fin_cases k <;> rfl
  | _ => rfl

namespace State

/-- With nothing latched no command is due. -/
theorem due_of_inFlight_none {s : State} (h : s.inFlight = none) : s.due = false := by
  simp [due, h]

/-- With nothing latched the passing of a host step changes nothing. -/
theorem tick_of_inFlight_none {s : State} (h : s.inFlight = none) : s.tick = s := by
  rw [tick, h, Option.map_none, ← h]

/-- A full write at a register's offset while idle writes that register (R42). -/
theorem hostWrite_reg_of_idle {s : State} (hidle : s.flag .busy = false) (g : Reg) (v : Word) :
    s.hostWrite (BitVec.ofNat 12 g.offset) 0xF#4 v = (s.writeReg v g).respond .writeOk := by
  simp [hostWrite, hidle, writeTarget]

end State

/-- The step in which the host writes a register of an idle FXDP. -/
theorem step_write_reg_of_idle {s : State} {g : Reg} {v : Word} {rest : List HostOp} (hnone : s.inFlight = none)
    (hidle : s.flag .busy = false) (hin : s.inbox = .wr (BitVec.ofNat 12 g.offset) 0xF#4 v :: rest) :
    step s = .next ((({ s with inbox := rest } : State).writeReg v g).respond .writeOk) := by
  have htick : ({ s with inbox := rest } : State).tick = { s with inbox := rest } := State.tick_of_inFlight_none hnone
  rw [step_of_not_due (State.due_of_inFlight_none hnone), hostStep_cons hin, htick]
  exact congrArg _ (State.hostWrite_reg_of_idle (s := { s with inbox := rest }) hidle g v)

/-! ### The register classes (R17) -/

/-- The read-only registers of R16, SCALE_TBL apart. -/
def readOnlyRegs : List Reg := [.id, .len, .fsign, .fint, .ffrac, .fscale, .pend, .result]

/-- The read-write registers of R16 that a write stores in: all but CTRL. -/
def storedRegs : List Reg :=
  [.value, .digits, .evalReg, .outptr, .pstart, .pflags, .iacc, .icnt, .fval, .fscl, .expm, .accLo, .accHi]

/-- What a register of `storedRegs` holds after a write of `v`: all of `v`, in PFLAGS the existing bits only (R17). -/
def storedWord (g : Reg) (v : Word) : Word := if g = .pflags then v &&& pflagsMask else v

/-- The stored word, bit by bit. -/
theorem getLsbD_storedWord (g : Reg) (v : Word) (k : Nat) :
    (storedWord g v).getLsbD k = (v.getLsbD k && (!(g == .pflags) || decide (k < 2))) := by
  unfold storedWord
  split
  · next h => simp [h, getLsbD_pflagsMask]
  · next h => simp [h]

namespace State

/-- A write of a read-only register changes nothing. -/
theorem writeReg_readOnly (s : State) (v : Word) {g : Reg} (hg : g ∈ readOnlyRegs ∨ ∃ k, g = .scaleTbl k) :
    s.writeReg v g = s := by
  obtain hg | ⟨k, rfl⟩ := hg
  · fin_cases hg <;> rfl
  · rfl

/-- The register file after a write: the written register holds the stored word, every other one what it held. -/
theorem readReg_writeReg_stored (s : State) (v : Word) {g : Reg} (hg : g ∈ storedRegs) (h : Reg) :
    (s.writeReg v g).readReg h = if h = g then storedWord g v else s.readReg h := by
  fin_cases hg <;> cases h <;> rfl

/-- The written register reads back the stored word. -/
theorem readReg_writeReg_same (s : State) (v : Word) {g : Reg} (hg : g ∈ storedRegs) :
    (s.writeReg v g).readReg g = storedWord g v := by
  rw [readReg_writeReg_stored s v hg, if_pos rfl]

/-- Every other register keeps its value. -/
theorem readReg_writeReg_other (s : State) (v : Word) {g h : Reg} (hg : g ∈ storedRegs) (hne : h ≠ g) :
    (s.writeReg v g).readReg h = s.readReg h := by
  rw [readReg_writeReg_stored s v hg, if_neg hne]

/-- A write of a register other than CTRL changes nothing outside the register file. -/
theorem writeReg_frame (s : State) (v : Word) {g : Reg} (hg : g ≠ .ctrl) :
    (s.writeReg v g).mem = s.mem ∧ (s.writeReg v g).inFlight = s.inFlight ∧ (s.writeReg v g).params = s.params ∧
      (s.writeReg v g).resets = s.resets ∧ (s.writeReg v g).draws = s.draws ∧ (s.writeReg v g).inbox = s.inbox ∧
      (s.writeReg v g).responses = s.responses := by
  cases g with
  | ctrl => exact absurd rfl hg
  | _ => exact ⟨rfl, rfl, rfl, rfl, rfl, rfl, rfl⟩

/-- A response changes no register. -/
@[simp] theorem readReg_respond (s : State) (r : Response) (h : Reg) : (s.respond r).readReg h = s.readReg h := by
  cases h <;> rfl

/-- The register file does not depend on what the host does next. -/
theorem readReg_withInbox (s : State) (ops : List HostOp) (h : Reg) :
    ({ s with inbox := ops } : State).readReg h = s.readReg h := by
  cases h <;> rfl

end State

/-- Settles O18: an idle register write is `writeReg` and an OK, and `writeReg` is known for each class of registers. -/
theorem registerWriteRights : Obligations.RegisterWriteRights := by
  unfold Obligations.RegisterWriteRights
  refine ⟨fun s g v rest hnone hidle hin => ?_, fun s hinv => ⟨hinv.pflags_reserved, hinv.status_reserved⟩⟩
  have hstep := step_write_reg_of_idle hnone hidle hin
  refine ⟨fun hg => ?readOnly, fun hg => ?stored, fun hg => ?status⟩
  case readOnly =>
    rw [hstep, State.writeReg_readOnly _ _ hg]
    rfl
  case stored =>
    have hctrl : g ≠ .ctrl := by rintro rfl; exact absurd hg (by decide)
    obtain ⟨hmem, hflight, hparams, hresets, hdraws, hinbox, hresp⟩ :=
      State.writeReg_frame { s with inbox := rest } v hctrl
    refine ⟨_, hstep, fun k _ => ?_, fun h hne => ?_, hmem, hflight.trans hnone, hparams, hresets, hdraws, hinbox,
      congrArg _ hresp⟩
    · rw [State.readReg_respond, State.readReg_writeReg_same _ _ hg, getLsbD_storedWord]
    · rw [State.readReg_respond, State.readReg_writeReg_other _ _ hg hne, State.readReg_withInbox]
  case status =>
    subst hg
    refine ⟨_, hstep, fun k hk => ?_⟩
    have hnot : ¬ (1 ≤ k ∧ k ≤ 6) := by omega
    exact (getLsbD_w1cWrite s.status v k).trans (by simp [hnot])

end Sys2Proof.Machine
end

section
/-! What a host access answers: the legal offsets against the address map (R41, R44), the bytes of a loaded word (R46), the
ERROR response (R45) and the resolution of a read (R41). -/

namespace Sys2Proof.Machine

/-! ### The address map (R44) -/

/-- The register offsets of R16 are the offsets of the registers. -/
theorem registerOffsets_eq : registerOffsets = Reg.all.map Reg.offset := rfl

/-- Registers lie below 0x100 (R44). -/
theorem lt_of_mem_registerOffsets {a : Nat} (h : a ∈ registerOffsets) : a < 0x100 :=
  (by decide : ∀ b ∈ registerOffsets, b < 0x100) a h

/-- The OUT window (R44). -/
theorem inOut_iff (p : Params) (a : Nat) : inOut p a = true ↔ 0x100 ≤ a ∧ a < 0x100 + p.outLen := by
  rw [inOut, Bool.and_eq_true, decide_eq_true_eq, decide_eq_true_eq, outBase]

/-- The TXT window (R44). -/
theorem inTxt_iff (p : Params) (a : Nat) : inTxt p a = true ↔ 0x800 ≤ a ∧ a < 0x800 + p.txtLen := by
  rw [inTxt, Bool.and_eq_true, decide_eq_true_eq, decide_eq_true_eq, txtBase]

/-- An aligned offset below 0x100 names a register, if it names anything. -/
theorem targetOf_of_lt (p : Params) {off : Offset} (halign : off.toNat % 4 = 0) (hlt : off.toNat < 0x100) :
    targetOf p off = (Reg.all.find? (fun r => r.offset == off.toNat)).map .reg := by
  simp [targetOf, halign, hlt]

/-- An aligned offset from 0x100 on names the buffer word there, if it lies in a window. -/
theorem targetOf_of_ge (p : Params) {off : Offset} (halign : off.toNat % 4 = 0) (hge : 0x100 ≤ off.toNat) :
    targetOf p off = if inOut p off.toNat || inTxt p off.toNat then some (.buf off.toNat) else none := by
  simp [targetOf, halign, Nat.not_lt.2 hge]

/-- The legal offsets are those that name something (R41, R44). -/
theorem isSome_targetOf_iff (p : Params) (off : Offset) : (targetOf p off).isSome = true ↔ LegalOffset p off.toNat := by
  by_cases halign : off.toNat % 4 = 0
  · obtain hlt | hge := Nat.lt_or_ge off.toNat 0x100
    · have hbuf : ¬ (0x100 ≤ off.toNat ∧ off.toNat < 0x100 + p.outLen) ∧
          ¬ (0x800 ≤ off.toNat ∧ off.toNat < 0x800 + p.txtLen) := by omega
      simp [targetOf_of_lt p halign hlt, LegalOffset, halign, hbuf, registerOffsets_eq, List.find?_isSome]
    · have hreg : off.toNat ∉ registerOffsets := fun h => absurd (lt_of_mem_registerOffsets h) (Nat.not_lt.2 hge)
      simp [targetOf_of_ge p halign hge, LegalOffset, halign, hreg, inOut_iff, inTxt_iff]
  · simp [targetOf, LegalOffset, halign]

/-- An offset names nothing exactly when it is misaligned or reserved. -/
theorem targetOf_eq_none_iff (p : Params) (off : Offset) : targetOf p off = none ↔ ¬ LegalOffset p off.toNat := by
  rw [← isSome_targetOf_iff, Option.not_isSome_iff_eq_none]

/-- What names something is legal. -/
theorem legalOffset_of_targetOf {p : Params} {off : Offset} {t : Target} (h : targetOf p off = some t) :
    LegalOffset p off.toNat :=
  (isSome_targetOf_iff p off).1 (by rw [h, Option.isSome_some])

/-- At the offset of a register the target is that register. -/
theorem targetOf_of_toNat_eq (p : Params) {off : Offset} {g : Reg} (h : off.toNat = g.offset) :
    targetOf p off = some (.reg g) := by
  rw [← targetOf_regOffset p g, ← h, BitVec.ofNat_toNat, BitVec.setWidth_eq]

/-- A legal offset from 0x100 on names the buffer word there. -/
theorem targetOf_of_legal_ge {p : Params} {off : Offset} (hlegal : LegalOffset p off.toNat) (hge : 0x100 ≤ off.toNat) :
    targetOf p off = some (.buf off.toNat) := by
  have hsome := (isSome_targetOf_iff p off).2 hlegal
  rw [targetOf_of_ge p hlegal.1 hge] at hsome ⊢
  split at hsome
  · next hwin => rw [if_pos hwin]
  · cases hsome

/-! ### Words and accesses -/

namespace State

/-- Byte k of a loaded word is the byte at the word's offset plus k (R46). -/
theorem extractLsb'_loadWord (s : State) (a : Nat) {k : Nat} (hk : k < 4) :
    (s.loadWord a).extractLsb' (8 * k) 8 = s.byteAt (a + k) := by
  interval_cases k
  · exact BitVec.extractLsb'_append_eq_right
  · exact (BitVec.extractLsb'_append_eq_of_le (by decide)).trans BitVec.extractLsb'_append_eq_right
  · exact (BitVec.extractLsb'_append_eq_of_le (by decide)).trans
      ((BitVec.extractLsb'_append_eq_of_le (by decide)).trans BitVec.extractLsb'_append_eq_right)
  · exact (BitVec.extractLsb'_append_eq_of_le (by decide)).trans
      ((BitVec.extractLsb'_append_eq_of_le (by decide)).trans BitVec.extractLsb'_append_eq_left)

/-- The register file does not depend on what the host does next, nor on the sequencer. -/
theorem readReg_withHostSide (s : State) (ops : List HostOp) (f : Option InFlight) (g : Reg) :
    ({ s with inbox := ops, inFlight := f } : State).readReg g = s.readReg g := by
  cases g <;> rfl

/-- A read of a misaligned or reserved offset gets ERROR (R41 item 1). -/
theorem hostRead_of_not_legal {s : State} {off : Offset} (h : ¬ LegalOffset s.params off.toNat) :
    s.hostRead off = s.drawn.respond (.readError (Config.errorRead s.draws)) := by
  simp [hostRead, (targetOf_eq_none_iff s.params off).2 h]

/-- A write at a misaligned or reserved offset, or with partial strobes, gets ERROR (R42 item 1). -/
theorem hostWrite_of_bad {s : State} {off : Offset} {strb : Strobes} (v : Word)
    (h : ¬ LegalOffset s.params off.toNat ∨ strb ≠ 0xF#4) : s.hostWrite off strb v = s.respond .writeError := by
  obtain ⟨-, heq⟩ | ⟨t, ht, hstrb, -⟩ | ⟨t, ht, hstrb, -⟩ := s.hostWrite_cases off strb v
  · exact heq
  all_goals exact absurd h (by simp [legalOffset_of_targetOf ht, hstrb])

end State

/-- The step in which the host acts: its oldest operation, one step nearer to the running command's completion. -/
theorem step_hostOp {s : State} {op : HostOp} {rest : List HostOp} (hdue : s.due = false) (hin : s.inbox = op :: rest) :
    step s = .next (({ s with inbox := rest, inFlight := passes s.inFlight } : State).hostOp op) := by
  rw [step_of_not_due hdue, hostStep_cons hin]
  rfl

/-- Settles O15: a bad access only gives its response, whatever BUSY is. -/
theorem badAccessHasNoEffect : Obligations.BadAccessHasNoEffect := by
  unfold Obligations.BadAccessHasNoEffect
  refine fun s rest hdue => ⟨fun off hin hill => ?read, fun off strb v hin hbad => ?write⟩
  case read => exact ⟨_, _, (step_hostOp hdue hin).trans (congrArg _ (State.hostRead_of_not_legal hill))⟩
  case write => exact (step_hostOp hdue hin).trans (congrArg _ (State.hostWrite_of_bad v hbad))

/-- Settles O16, by the three cases of R41. -/
theorem hostReadAnswers : Obligations.HostReadAnswers := by
  unfold Obligations.HostReadAnswers
  intro s off rest hdue hin
  have hstep := step_hostOp hdue hin
  obtain ⟨hnone, hread⟩ | ⟨t, ht, hbusy, hstatus, hread⟩ | ⟨t, ht, -, hread⟩ :=
    State.hostRead_cases { s with inbox := rest, inFlight := passes s.inFlight } off
  · have hill : ¬ LegalOffset s.params off.toNat := (targetOf_eq_none_iff s.params off).1 hnone
    exact ⟨_, _, hstep.trans (congrArg _ hread), fun _ => ⟨_, rfl⟩, fun h => absurd h hill, fun h => absurd h hill⟩
  · have hlegal : LegalOffset s.params off.toNat := legalOffset_of_targetOf ht
    have hfour : off.toNat ≠ 4 := fun h =>
      hstatus (Option.some.inj (ht.symm.trans (targetOf_of_toNat_eq s.params (g := .status) h)))
    exact ⟨_, _, hstep.trans (congrArg _ hread), fun h => absurd hlegal h, fun _ _ _ => ⟨_, rfl⟩,
      fun _ h => h.elim (fun hidle => absurd (hbusy.symm.trans hidle) (by decide)) (fun h => absurd h hfour)⟩
  · have hlegal : LegalOffset s.params off.toNat := legalOffset_of_targetOf ht
    refine ⟨_, _, hstep.trans (congrArg _ hread), fun h => absurd hlegal h, fun _ _ _ => ⟨_, rfl⟩,
      fun _ _ => ⟨fun g hg => ?register, fun hge => ⟨_, rfl, fun k hk => ?buffer⟩⟩⟩
    case register =>
      obtain rfl : t = .reg g := Option.some.inj (ht.symm.trans (targetOf_of_toNat_eq s.params hg))
      exact congrArg _ (State.readReg_withHostSide s rest _ g)
    case buffer =>
      obtain rfl : t = .buf off.toNat := Option.some.inj (ht.symm.trans (targetOf_of_legal_ge hlegal hge))
      exact State.extractLsb'_loadWord s off.toNat hk

end Sys2Proof.Machine
end

section
/-! The field decoder (R54) against the match and mask rows (R56, R57): the row of an opcode, what selects it in terms of the
fields, and what the decoder answers at an opcode that has a row. -/

namespace Sys2Proof

/-! ### A word and its fields (R54) -/

/-- Words that agree on a field agree on each of its bits. -/
theorem getLsbD_eq_of_extractLsb'_eq {v w : Word} {start len k : Nat}
    (hfield : v.extractLsb' start len = w.extractLsb' start len) (hge : start ≤ k) (hlt : k < start + len) :
    v.getLsbD k = w.getLsbD k := by
  have hbit := congrArg (BitVec.getLsbD · (k - start)) hfield
  simpa [Nat.add_sub_cancel' hge, Nat.sub_lt_left_of_lt_add hge hlt] using hbit

/-- A word is determined by its fields: together they cover all 32 bits. -/
theorem word_ext_fields {v w : Word} (hop : opField v = opField w) (hrsv0 : rsv0Field v = rsv0Field w)
    (harg : argField v = argField w) (hskip : skipField v = skipField w) (haexp : aexpField v = aexpField w)
    (hshift : shiftField v = shiftField w) (hrsv1 : rsv1Field v = rsv1Field w) : v = w := by
  refine BitVec.eq_of_getLsbD_eq fun k hk => ?_
  obtain h | h | h | rfl | rfl | rfl | h :
      k < 4 ∨ (4 ≤ k ∧ k < 8) ∨ (8 ≤ k ∧ k < 12) ∨ k = 12 ∨ k = 13 ∨ k = 14 ∨ 15 ≤ k := by omega
  · exact getLsbD_eq_of_extractLsb'_eq hop (Nat.zero_le k) (by omega)
  · exact getLsbD_eq_of_extractLsb'_eq hrsv0 h.1 h.2
  · exact getLsbD_eq_of_extractLsb'_eq harg h.1 h.2
  · exact hskip
  · exact haexp
  · exact hshift
  · exact getLsbD_eq_of_extractLsb'_eq hrsv1 h hk

/-- A masked word is compared field by field, since the fields of a conjunction are conjunctions of fields. -/
theorem and_eq_iff_fields (w m v : Word) :
    w &&& m = v ↔ opField w &&& opField m = opField v ∧ rsv0Field w &&& rsv0Field m = rsv0Field v ∧
      argField w &&& argField m = argField v ∧ (skipField w && skipField m) = skipField v ∧
      (aexpField w && aexpField m) = aexpField v ∧ (shiftField w && shiftField m) = shiftField v ∧
      rsv1Field w &&& rsv1Field m = rsv1Field v := by
  simp only [opField, rsv0Field, argField, rsv1Field, ← BitVec.extractLsb'_and, skipField, aexpField, shiftField,
    ← BitVec.getLsbD_and]
  exact ⟨by rintro rfl; exact ⟨rfl, rfl, rfl, rfl, rfl, rfl, rfl⟩,
    fun ⟨hop, hrsv0, harg, hskip, haexp, hshift, hrsv1⟩ => word_ext_fields hop hrsv0 harg hskip haexp hshift hrsv1⟩

/-! ### The row of an opcode (R56) -/

/-- The bits that a command using the fields `u` fixes: all but those of its fields (R56). -/
def FieldUse.fixedMask (u : FieldUse) : Word :=
  0xFFFF80FF#32 ||| placeArg (if u.arg then 0#4 else 0xF#4) 8 ||| placeBit (!u.skip) 12 ||| placeBit (!u.aexp) 13 |||
    placeBit (!u.shift) 14

/-- The mask, field by field. -/
theorem fields_fixedMask (u : FieldUse) :
    opField u.fixedMask = 0xF#4 ∧ rsv0Field u.fixedMask = 0xF#4 ∧
      argField u.fixedMask = (if u.arg then 0#4 else 0xF#4) ∧ skipField u.fixedMask = !u.skip ∧
      aexpField u.fixedMask = !u.aexp ∧ shiftField u.fixedMask = !u.shift ∧
      rsv1Field u.fixedMask = BitVec.allOnes 17 := by
  obtain ⟨arg, skip, aexp, shift⟩ := u
  revert arg skip aexp shift
  decide

/-- A word that is an opcode has zeros in all its other fields. -/
theorem fields_setWidth_opcode : ∀ op : BitVec 4,
    opField (op.setWidth 32) = op ∧ rsv0Field (op.setWidth 32) = 0 ∧ argField (op.setWidth 32) = 0 ∧
      skipField (op.setWidth 32) = false ∧ aexpField (op.setWidth 32) = false ∧ shiftField (op.setWidth 32) = false ∧
      rsv1Field (op.setWidth 32) = 0 := by
  decide

/-- The fixed bits are those of the bare opcode exactly when OP is that opcode and every unused bit is 0. -/
theorem and_fixedMask_eq_iff (u : FieldUse) (w : Word) (op : BitVec 4) :
    w &&& u.fixedMask = op.setWidth 32 ↔ opField w = op ∧ unusedZero u w = true := by
  have hones4 (a : BitVec 4) : a &&& 0xF#4 = a := BitVec.and_allOnes
  have harg : argField w &&& (if u.arg then 0#4 else 0xF#4) = 0 ↔ (u.arg || argField w == 0) = true := by
    cases u.arg <;> simp [hones4]
  have hbit (b used : Bool) : (b && !used) = false ↔ (used || !b) = true := by cases used <;> simp
  obtain ⟨hop, hrsv0, hargm, hskip, haexp, hshift, hrsv1⟩ := fields_fixedMask u
  obtain ⟨hop', hrsv0', harg', hskip', haexp', hshift', hrsv1'⟩ := fields_setWidth_opcode op
  rw [and_eq_iff_fields, hop, hrsv0, hargm, hskip, haexp, hshift, hrsv1, hop', hrsv0', harg', hskip', haexp', hshift',
    hrsv1', hones4, hones4, BitVec.and_allOnes, harg, hbit, hbit, hbit]
  simp only [unusedZero, Bool.and_eq_true, beq_iff_eq]
  tauto

/-- The fields that the command of an opcode uses. -/
def usedFields : Nat → FieldUse
  | 0x1 => { arg := true, skip := true }
  | 0x5 | 0x7 | 0x9 => { arg := true }
  | 0xB => { shift := true }
  | 0xC => { aexp := true, shift := true }
  | _ => {}

/-- Row k of R56 is that of opcode k. -/
theorem opcodeRows_getElem : ∀ (k : Nat) (hk : k < opcodeRows.length),
    opcodeRows[k].matchBits = (BitVec.ofNat 4 k).setWidth 32 ∧ opcodeRows[k].mask = (usedFields k).fixedMask ∧
      opcodeRows[k].usesArg = (usedFields k).arg := by
  decide

/-- What selects row k: OP is k, and the bits that opcode k does not use are 0. -/
theorem selects_opcodeRows_iff {k : Nat} (hk : k < opcodeRows.length) (w : Word) :
    opcodeRows[k].selects w = true ↔ (opField w).toNat = k ∧ unusedZero (usedFields k) w = true := by
  obtain ⟨hmatch, hmask, -⟩ := opcodeRows_getElem k hk
  have hk13 : k < 13 := hk
  rw [OpcodeRow.selects, beq_iff_eq, hmatch, hmask, and_fixedMask_eq_iff, ← BitVec.toNat_inj, BitVec.toNat_ofNat,
    Nat.mod_eq_of_lt (by omega)]

/-- Legality in terms of the fields: the opcode has a row, the bits it does not use are 0, and ARG is in range where it is
used (R57). The rows and the decoder are compared through it. -/
def LegalFields (w : Word) : Prop :=
  (opField w).toNat < opcodeRows.length ∧ unusedZero (usedFields (opField w).toNat) w = true ∧
    (!(usedFields (opField w).toNat).arg || argOk (argField w)) = true

/-- The rows call legal the words whose fields are. -/
theorem legalByRows_iff (w : Word) : legalByRows w = true ↔ LegalFields w := by
  simp only [legalByRows, LegalFields, List.any_eq_true, List.mem_iff_getElem, Bool.and_eq_true]
  constructor
  · rintro ⟨_, ⟨k, hk, rfl⟩, hsel, harg⟩
    obtain ⟨rfl, hzero⟩ := (selects_opcodeRows_iff hk w).1 hsel
    obtain ⟨-, -, huses⟩ := opcodeRows_getElem _ hk
    exact ⟨hk, hzero, huses ▸ harg⟩
  · rintro ⟨hk, hzero, harg⟩
    obtain ⟨-, -, huses⟩ := opcodeRows_getElem _ hk
    exact ⟨_, ⟨_, hk, rfl⟩, (selects_opcodeRows_iff hk w).2 ⟨rfl, hzero⟩, huses.symm ▸ harg⟩

/-! ### The decoder at an opcode (R57) -/

/-- The check accepts the given command alone, when the unused bits are 0 and it is well-formed. -/
theorem checked_eq_ok_iff (u : FieldUse) (w : Word) (i j : Instr) :
    checked u w i = .ok j ↔ unusedZero u w = true ∧ i.wf = true ∧ i = j := by
  unfold checked
  split
  · split <;> simp [*]
  · simp [*]

/-- An opcode without a row is reserved. -/
theorem decode_of_reserved {w : Word} (hop : opcodeRows.length ≤ (opField w).toNat) :
    decode w = .error .reservedOpcode := by
  have hlt := (opField w).isLt
  have h13 : 13 ≤ (opField w).toNat := hop
  unfold decode
  generalize (opField w).toNat = k at *
  interval_cases k <;> rfl

/-- At an opcode with a row the decoder checks a command of that row, which is well-formed when ARG, if used, is in
range. -/
theorem decode_of_row {w : Word} (hop : (opField w).toNat < opcodeRows.length) :
    ∃ i, decode w = checked (usedFields (opField w).toNat) w i ∧ i.mnemonic = opcodeRows[(opField w).toNat].mnemonic ∧
      i.wf = (!(usedFields (opField w).toNat).arg || argOk (argField w)) := by
  have h13 : (opField w).toNat < 13 := hop
  unfold decode
  generalize (opField w).toNat = k at *
  interval_cases k <;> exact ⟨_, rfl, rfl, rfl⟩

/-- The decoder accepts the words whose fields are legal. -/
theorem exists_decode_eq_ok_iff (w : Word) : (∃ i, decode w = .ok i) ↔ LegalFields w := by
  by_cases hop : (opField w).toNat < opcodeRows.length
  · obtain ⟨i, hdecode, -, hwf⟩ := decode_of_row hop
    simp [hdecode, checked_eq_ok_iff, LegalFields, hop, hwf]
  · simp [decode_of_reserved (Nat.le_of_not_lt hop), LegalFields, hop]

/-- No word selects two rows, since each row has an opcode of its own. -/
theorem opcodeRows_disjoint :
    opcodeRows.Pairwise (fun r q => ∀ w : Word, ¬ (r.selects w = true ∧ q.selects w = true)) := by
  refine List.pairwise_iff_getElem.2 fun i j hi hj hlt w ⟨hri, hrj⟩ => ?_
  have hopi := ((selects_opcodeRows_iff hi w).1 hri).1
  have hopj := ((selects_opcodeRows_iff hj w).1 hrj).1
  omega

/-- The selected row is that of the decoded command. -/
theorem mnemonic_eq_of_selects {w : Word} {i : Instr} {r : OpcodeRow} (hdecode : decode w = .ok i)
    (hr : r ∈ opcodeRows) (hsel : r.selects w = true) : r.mnemonic = i.mnemonic := by
  obtain ⟨k, hk, rfl⟩ := List.mem_iff_getElem.1 hr
  obtain ⟨rfl, -⟩ := (selects_opcodeRows_iff hk w).1 hsel
  obtain ⟨j, hrow, hname, -⟩ := decode_of_row hk
  obtain ⟨-, -, rfl⟩ := (checked_eq_ok_iff ..).1 (hrow.symm.trans hdecode)
  exact hname.symm

end Sys2Proof

namespace Sys2Proof.Machine

/-- An illegal word written to CTRL raises ILL, leaves BUSY as it was and is not latched (R66 item 2). -/
theorem State.writeReg_ctrl_of_illegal (s : State) {w : Word} (hill : ∀ i, decode w ≠ .ok i) :
    (s.writeReg w .ctrl).flag .ill = true ∧ (s.writeReg w .ctrl).flag .busy = s.flag .busy ∧
      (s.writeReg w .ctrl).inFlight = s.inFlight := by
  obtain ⟨i, hi, -⟩ | ⟨-, -, hdeliver⟩ := s.deliver_cases w (Config.extraCycles s.draws)
  · exact absurd hi (hill i)
  · simp [State.writeReg, State.drawn, State.flag, hdeliver, getLsbD_setFlag, getLsbD_clearFlag, Flag.bit,
      -BitVec.getLsbD_eq_getElem]

/-- Settles O3: both the decoder and the rows are read through the fields of the word, where each row has its own opcode. -/
theorem legalIffSelectsOneRow : Obligations.LegalIffSelectsOneRow := by
  unfold Obligations.LegalIffSelectsOneRow
  refine ⟨fun w => (exists_decode_eq_ok_iff w).trans (legalByRows_iff w).symm, opcodeRows_disjoint,
    fun _ _ _ => mnemonic_eq_of_selects, fun s w hidle hill => ?_⟩
  obtain ⟨hillFlag, hbusy, hflight⟩ := s.writeReg_ctrl_of_illegal hill
  exact ⟨hillFlag, hbusy.trans hidle, hflight⟩

end Sys2Proof.Machine
end

section
/-! Digit emission: decimal texts from their leading digit, and the bytes of `EmitDigits` below and above 10^(e+1) (R69 to
R71). -/

namespace Sys2Proof.Machine

/-! ### Decimal digits from the leading one -/

/-- `k + 1` decimal digits are the leading one and the `k` digits of the rest. -/
theorem digitsAppend_succ {n k : Nat} (h : n < 10 ^ (k + 1)) :
    Nat.digitsAppend 10 (k + 1) n = Nat.digitsAppend 10 k (n % 10 ^ k) ++ [n / 10 ^ k] := by
  have hpos : 0 < 10 ^ k := by positivity
  have hlow : (Nat.digits 10 (n % 10 ^ k)).length ≤ k := (Nat.digits_length_le_iff (by decide) _).2 (Nat.mod_lt n hpos)
  obtain hzero | hlead := Nat.eq_zero_or_pos (n / 10 ^ k)
  · have hmod : n % 10 ^ k = n := Nat.mod_eq_of_lt ((Nat.div_eq_zero_iff_lt hpos).1 hzero)
    rw [hmod] at hlow
    rw [hzero, hmod, Nat.digitsAppend, Nat.digitsAppend, Nat.succ_sub hlow, List.replicate_succ', List.append_assoc]
  · have hone : Nat.digits 10 (n / 10 ^ k) = [n / 10 ^ k] :=
      Nat.digits_of_lt 10 _ hlead.ne' (Nat.div_lt_of_lt_mul (by rwa [← Nat.pow_succ]))
    have hn : Nat.digits 10 n = Nat.digitsAppend 10 k (n % 10 ^ k) ++ [n / 10 ^ k] := by
      rw [Nat.digitsAppend, ← hone, Nat.digits_append_zeroes_append_digits (by decide) hlead, Nat.add_sub_cancel' hlow,
        Nat.mod_add_div]
    have hlen : k < (Nat.digits 10 n).length :=
      (Nat.lt_digits_length_iff (by decide) n).2 ((Nat.div_pos_iff.1 hlead).2)
    rw [Nat.digitsAppend, Nat.sub_eq_zero_of_le hlen, List.replicate_zero, List.append_nil, hn]

/-- A padded text is the text of the padded digits. -/
theorem paddedText_eq (n k : Nat) : paddedText n (k + 1) = (Nat.digitsAppend 10 (k + 1) n).reverse.map digitByte := by
  by_cases hn : n = 0
  · subst hn
    simp [paddedText, decimalText, Nat.digitsAppend, digitByte, chZero]
    rw [← List.replicate_succ', List.replicate_succ]
  · simp [paddedText, decimalText, Nat.digitsAppend, hn, digitByte, chZero]

/-- A padded text from its leading digit. -/
theorem paddedText_succ {n k : Nat} (h : n < 10 ^ (k + 2)) :
    paddedText n (k + 2) = digitByte (n / 10 ^ (k + 1)) :: paddedText (n % 10 ^ (k + 1)) (k + 1) := by
  rw [paddedText_eq, paddedText_eq, digitsAppend_succ h, List.reverse_concat, List.map_cons]

/-- The text of one digit. -/
theorem paddedText_one {n : Nat} (h : n < 10) : paddedText n 1 = [digitByte n] := by
  rw [paddedText_eq, digitsAppend_succ h]
  simp [Nat.digitsAppend, Nat.mod_one]

/-- A padded text has the length it is padded to, where the number fits. -/
theorem length_paddedText {n k : Nat} (h : n < 10 ^ (k + 1)) : (paddedText n (k + 1)).length = k + 1 := by
  rw [paddedText_eq, List.length_map, List.length_reverse, Nat.length_digitsAppend (by decide) _ h]

/-- A number of at least 10^k has more than `k` decimal digits. -/
theorem lt_length_decimalText {n k : Nat} (h : 10 ^ k ≤ n) : k < (decimalText n).length := by
  have hn : n ≠ 0 := (lt_of_lt_of_le (by positivity) h).ne'
  simpa [decimalText, hn] using (Nat.lt_digits_length_iff (by decide) n).2 h

/-- A decimal text has at least one byte. -/
theorem decimalText_ne_nil (n : Nat) : decimalText n ≠ [] := by
  by_cases hn : n = 0 <;> simp [decimalText, hn, Nat.digits_eq_nil_iff_eq_zero]

/-- A text that is long enough is not padded. -/
theorem paddedText_of_le_length {n k : Nat} (h : k ≤ (decimalText n).length) : paddedText n k = decimalText n := by
  rw [paddedText, Nat.sub_eq_zero_of_le h, List.replicate_zero, List.nil_append]

/-- The text of a number below 10^(k+1) has at most `k + 1` bytes. -/
theorem length_decimalText_le {n k : Nat} (h : n < 10 ^ (k + 1)) : (decimalText n).length ≤ k + 1 := by
  have hlen := length_paddedText h
  rw [paddedText, List.length_append] at hlen
  omega

/-- The byte of a decimal digit is a digit character (R63). -/
theorem isDigit_digitByte {d : Nat} (h : d < 10) : isDigit (digitByte d) = true := by
  revert d
  decide

/-- A padded text consists of digits. -/
theorem isDigit_of_mem_paddedText {n k : Nat} {b : Byte} (hb : b ∈ paddedText n (k + 1)) : isDigit b = true := by
  rw [paddedText_eq, List.mem_map] at hb
  obtain ⟨d, hd, rfl⟩ := hb
  exact isDigit_digitByte (Nat.lt_of_mem_digitsAppend (by decide) _ d (List.mem_reverse.1 hd))

/-- A decimal text consists of digits. -/
theorem isDigit_of_mem_decimalText {n : Nat} {b : Byte} (hb : b ∈ decimalText n) : isDigit b = true :=
  isDigit_of_mem_paddedText (k := 0) (List.mem_append_right _ hb)

/-! ### `EmitDigits` (R69) -/

/-- Without suppression a place gives its digit, and the rest is emitted below it. -/
theorem emitDigits_succ_false (v e : Nat) :
    emitDigits v (e + 1) false =
      (digitByte (v / 10 ^ (e + 1)) :: (emitDigits (v % 10 ^ (e + 1)) e false).1,
        decide (10 ≤ v / 10 ^ (e + 1)) || (emitDigits (v % 10 ^ (e + 1)) e false).2) := rfl

/-- Suppression omits a place whose digit is 0. -/
theorem emitDigits_succ_true_of_lt {v e : Nat} (h : v < 10 ^ (e + 1)) :
    emitDigits v (e + 1) true = emitDigits v e true := by
  rw [emitDigits, Nat.div_eq_of_lt h]
  rfl

/-- Suppression changes nothing where the digit of the first place is not 0. -/
theorem emitDigits_of_le {v e : Nat} (h : 10 ^ e ≤ v) (skip : Bool) : emitDigits v e skip = emitDigits v e false := by
  cases e with
  | zero => rfl
  | succ e =>
    have hlead : v / 10 ^ (e + 1) ≠ 0 := (Nat.div_pos h (by positivity)).ne'
    simp [emitDigits, hlead]

/-- Below 10^(e+1), without suppression: the padded text, and no overflow. -/
theorem emitDigits_false_of_lt {v e : Nat} (h : v < 10 ^ (e + 1)) :
    emitDigits v e false = (paddedText v (e + 1), false) := by
  induction e generalizing v with
  | zero =>
    have hdigit : ¬ 10 ≤ v := Nat.not_le.2 h
    rw [paddedText_one h, emitDigits, decide_eq_false hdigit]
  | succ e ih =>
    have hlead : ¬ 10 ≤ v / 10 ^ (e + 1) := Nat.not_le.2 (Nat.div_lt_of_lt_mul (by rwa [← Nat.pow_succ]))
    rw [emitDigits_succ_false, ih (Nat.mod_lt _ (by positivity)), paddedText_succ h, decide_eq_false hlead, Bool.or_self]

/-- Below 10^(e+1), with suppression: the decimal text, and no overflow. -/
theorem emitDigits_true_of_lt {v e : Nat} (h : v < 10 ^ (e + 1)) : emitDigits v e true = (decimalText v, false) := by
  induction e with
  | zero =>
    rw [← paddedText_of_le_length (List.length_pos_of_ne_nil (decimalText_ne_nil v))]
    exact emitDigits_false_of_lt h
  | succ e ih =>
    obtain hlt | hge := Nat.lt_or_ge v (10 ^ (e + 1))
    · rw [emitDigits_succ_true_of_lt hlt, ih hlt]
    · rw [emitDigits_of_le hge, emitDigits_false_of_lt h, paddedText_of_le_length (lt_length_decimalText hge)]

/-- From 10^(e+1) on: overflow, a first byte made from more than a digit (R70), and the padded digits of the rest. -/
theorem emitDigits_of_overflow {v e : Nat} (h : 10 ^ (e + 1) ≤ v) (skip : Bool) :
    emitDigits v e skip =
      (digitByte (v / 10 ^ e) :: (if e = 0 then [] else paddedText (v % 10 ^ e) e), true) := by
  have hlead : 10 ≤ v / 10 ^ e := (Nat.le_div_iff_mul_le (by positivity)).2 (by rwa [← Nat.pow_succ'])
  rw [emitDigits_of_le (le_trans (Nat.pow_le_pow_right (by decide) e.le_succ) h)]
  cases e with
  | zero => simpa [emitDigits] using hlead
  | succ e =>
    rw [emitDigits_succ_false, emitDigits_false_of_lt (Nat.mod_lt _ (by positivity)), decide_eq_true hlead,
      if_neg e.succ_ne_zero, Bool.true_or]

/-- `EmitDigits` overflows exactly from 10^(e+1) on (R71 (d)). -/
theorem emitDigits_overflow_iff (v e : Nat) (skip : Bool) : (emitDigits v e skip).2 = true ↔ 10 ^ (e + 1) ≤ v := by
  obtain hlt | hge := Nat.lt_or_ge v (10 ^ (e + 1))
  · cases skip
    · simp [emitDigits_false_of_lt hlt, hlt]
    · simp [emitDigits_true_of_lt hlt, hlt]
  · simp [emitDigits_of_overflow hge, hge]

/-- Without suppression `EmitDigits` gives `e + 1` bytes. -/
theorem length_emitDigits_false (v e : Nat) : (emitDigits v e false).1.length = e + 1 := by
  induction e generalizing v with
  | zero => rfl
  | succ e ih => rw [emitDigits_succ_false, List.length_cons, ih]

/-- With suppression `EmitDigits` gives the bytes of the decimal text, at most `e + 1`. -/
theorem length_emitDigits_true (v e : Nat) :
    (emitDigits v e true).1.length = min (e + 1) (decimalText v).length := by
  obtain hlt | hge := Nat.lt_or_ge v (10 ^ (e + 1))
  · rw [emitDigits_true_of_lt hlt, Nat.min_eq_right (length_decimalText_le hlt)]
  · rw [emitDigits_of_le (le_trans (Nat.pow_le_pow_right (by decide) e.le_succ) hge), length_emitDigits_false,
      Nat.min_eq_left (lt_length_decimalText hge).le]

/-- All bytes but the first are digits, whatever the number (R71 (e)). -/
theorem isDigit_of_mem_tail_emitDigits {v e : Nat} {skip : Bool} {b : Byte} (hb : b ∈ (emitDigits v e skip).1.tail) :
    isDigit b = true := by
  obtain hlt | hge := Nat.lt_or_ge v (10 ^ (e + 1))
  · cases skip
    · rw [emitDigits_false_of_lt hlt] at hb
      exact isDigit_of_mem_paddedText (List.mem_of_mem_tail hb)
    · rw [emitDigits_true_of_lt hlt] at hb
      exact isDigit_of_mem_decimalText (List.mem_of_mem_tail hb)
  · rw [emitDigits_of_overflow hge] at hb
    cases e with
    | zero => exact absurd hb List.not_mem_nil
    | succ e => exact isDigit_of_mem_paddedText (by simpa using hb)

/-- Settles O32: the bytes are known below 10^(e+1), with and without suppression, and from there on. -/
theorem emitDigitsProperties : Obligations.EmitDigitsProperties := by
  unfold Obligations.EmitDigitsProperties
  rintro v e skip bs ovf h
  obtain ⟨rfl, rfl⟩ : (emitDigits v e skip).1 = bs ∧ (emitDigits v e skip).2 = ovf := by rw [h]; exact ⟨rfl, rfl⟩
  refine ⟨List.length_pos_of_ne_nil (emitDigits_nonempty v e skip), ?_, ?_, emitDigits_overflow_iff v e skip,
    fun _ => isDigit_of_mem_tail_emitDigits, fun hge => by rw [emitDigits_of_overflow hge]; rfl, ?_, ?_⟩
  · rintro rfl
    exact length_emitDigits_false v e
  · rintro rfl
    exact length_emitDigits_true v e
  · rintro hlt rfl
    rw [emitDigits_false_of_lt hlt]
  · rintro hlt rfl
    rw [emitDigits_true_of_lt hlt]

end Sys2Proof.Machine
end

section
/-! EMIT: which bytes and flags a run of output bytes reaches (R65, R72), and what EMIT makes of the state. -/

namespace Sys2Proof.Machine

namespace State

/-! ### Runs of output bytes (R65, R72) -/

@[simp] theorem outByte_params (s : State) (i : Nat) (b : Byte) : (s.outByte i b).params = s.params := by
  rw [outByte_eq]

/-- `OutByte` keeps every byte but the one it writes, if it writes any. -/
theorem byteAt_outByte_other (s : State) {i a : Nat} (b : Byte) (h : i < s.params.outLen → a ≠ outBase + i) :
    (s.outByte i b).byteAt a = s.byteAt a := by
  obtain ⟨hi, heq⟩ | ⟨-, heq⟩ := s.outByte_cases i b
  · rw [heq, byteAt_writeByte_other s b (h hi)]
  · rw [heq]
    rfl

/-- A run of output bytes keeps every byte that it does not reach. -/
theorem byteAt_outBytes_other (s : State) {i a : Nat} {bs : List Byte}
    (h : ∀ j, j < bs.length → (i + j) % 2 ^ 32 < s.params.outLen → a ≠ outBase + (i + j) % 2 ^ 32) :
    (s.outBytes i bs).byteAt a = s.byteAt a := by
  induction bs generalizing s i with
  | nil => rfl
  | cons b bs ih =>
    have hrest : ∀ j, j < bs.length → (i + 1 + j) % 2 ^ 32 < s.params.outLen → a ≠ outBase + (i + 1 + j) % 2 ^ 32 := by
      intro j hj
      rw [Nat.add_assoc, Nat.add_comm 1 j]
      exact h (j + 1) (Nat.succ_lt_succ hj)
    rw [outBytes, ih _ (by simpa using hrest)]
    exact byteAt_outByte_other s b (h 0 (Nat.succ_pos _))

/-- Byte `j` of a run stands at its index, where that is below OUT_LEN: no later byte of the run has the same index, since
the run is no longer than 2^32. -/
theorem outAt_outBytes (s : State) {i j : Nat} {bs : List Byte} {b : Byte} (hlen : bs.length ≤ 2 ^ 32)
    (hb : bs[j]? = some b) (hin : (i + j) % 2 ^ 32 < s.params.outLen) :
    (s.outBytes i bs).outAt ((i + j) % 2 ^ 32) = b := by
  induction bs generalizing s i j with
  | nil => cases hb
  | cons c bs ih =>
    rw [List.length_cons] at hlen
    cases j with
    | zero =>
      obtain rfl : c = b := Option.some.inj hb
      rw [Nat.add_zero] at hin ⊢
      rw [outBytes, outAt, byteAt_outBytes_other _ (fun k hk _ => by omega), outByte, if_pos hin, byteAt_writeByte_same]
    | succ j =>
      have hindex : i + (j + 1) = i + 1 + j := by omega
      rw [hindex] at hin ⊢
      exact ih _ (by omega) hb (by simpa using hin)

/-- `OutByte` raises OOVF from OUT_LEN on, and no other flag (R65). -/
theorem getLsbD_status_outByte (s : State) (i : Nat) (b : Byte) (k : Nat) :
    (s.outByte i b).status.getLsbD k = true ↔
      s.status.getLsbD k = true ∨ (k = Flag.oovf.bit ∧ s.params.outLen ≤ i) := by
  obtain ⟨hi, heq⟩ | ⟨hi, heq⟩ := s.outByte_cases i b
  · simp [heq, Nat.not_le.2 hi]
  · simp [heq, hi, getLsbD_setFlag, -BitVec.getLsbD_eq_getElem]

/-- A run of output bytes raises OOVF when one of its indices is not below OUT_LEN, and no other flag (R99). -/
theorem getLsbD_status_outBytes (s : State) (i : Nat) (bs : List Byte) (k : Nat) :
    (s.outBytes i bs).status.getLsbD k = true ↔
      s.status.getLsbD k = true ∨
        (k = Flag.oovf.bit ∧ ∃ j, j < bs.length ∧ s.params.outLen ≤ (i + j) % 2 ^ 32) := by
  induction bs generalizing s i with
  | nil => simp [outBytes]
  | cons b bs ih =>
    have hsplit : (∃ j, j < (b :: bs).length ∧ s.params.outLen ≤ (i + j) % 2 ^ 32) ↔
        s.params.outLen ≤ i % 2 ^ 32 ∨ ∃ j, j < bs.length ∧ s.params.outLen ≤ (i + 1 + j) % 2 ^ 32 := by
      simp only [List.length_cons, Nat.exists_lt_succ_left, Nat.add_zero, Nat.add_right_comm i 1, Nat.add_assoc]
    rw [outBytes, ih, getLsbD_status_outByte, outByte_params, hsplit]
    tauto

end State

/-! ### EMIT (R72) -/

/-- EMIT writes OUTPTR, STATUS and the memory, and the memory is that of the emitted run. -/
theorem doEmit_eq (e : Nat) (skip : Bool) (s : State) :
    doEmit e skip s =
      { s with
        outptr := BitVec.ofNat 32 (s.outptr.toNat + (emitDigits s.evalReg.toNat e skip).1.length)
        status := (doEmit e skip s).status
        mem := (s.outBytes s.outptr.toNat (emitDigits s.evalReg.toNat e skip).1).mem } := by
  dsimp only [doEmit]
  rw [State.outBytes_eq]
  split <;> rfl

/-- The bytes after EMIT are those of the emitted run. -/
theorem byteAt_doEmit (e : Nat) (skip : Bool) (s : State) (a : Nat) :
    (doEmit e skip s).byteAt a = (s.outBytes s.outptr.toNat (emitDigits s.evalReg.toNat e skip).1).byteAt a := by
  rw [doEmit_eq, State.outBytes_eq]
  rfl

/-- The flags that EMIT raises: DOVF when `EmitDigits` overflows (R98), and OOVF when an index is not below OUT_LEN (R99). -/
theorem getLsbD_status_doEmit (e : Nat) (skip : Bool) (s : State) (k : Nat) :
    (doEmit e skip s).status.getLsbD k = true ↔
      s.status.getLsbD k = true ∨ (k = Flag.dovf.bit ∧ (emitDigits s.evalReg.toNat e skip).2 = true) ∨
        (k = Flag.oovf.bit ∧ ∃ j, j < (emitDigits s.evalReg.toNat e skip).1.length ∧
          s.params.outLen ≤ (s.outptr.toNat + j) % 2 ^ 32) := by
  have hrun := s.getLsbD_status_outBytes s.outptr.toNat (emitDigits s.evalReg.toNat e skip).1 k
  dsimp only [doEmit]
  split
  · next hovf =>
    rw [State.raise_status, getLsbD_setFlag, Bool.or_eq_true, decide_eq_true_eq, hrun, and_iff_left hovf, or_right_comm,
      or_assoc]
  · next hovf =>
    simpa [hovf] using hrun

/-- `EmitDigits` gives at most `e + 1` bytes. -/
theorem length_emitDigits_le (v e : Nat) (skip : Bool) : (emitDigits v e skip).1.length ≤ e + 1 := by
  cases skip
  · exact (length_emitDigits_false v e).le
  · exact (length_emitDigits_true v e).trans_le (Nat.min_le_left _ _)

/-- The word of EMIT is legal for e up to 9, and stands for nothing above (R57). -/
theorem decode_emitWord : ∀ (e : BitVec 4) (skip : Bool),
    decode (BitVec.ofNat 32 (1 + 256 * e.toNat + if skip then 4096 else 0)) =
      if e.toNat ≤ 9 then .ok (.emit e skip) else .error .argTooLarge := by
  decide

/-- A step with a due command that decodes is the command's Exec and its completion (R66 item 4). -/
theorem step_of_due {s : State} {w : Word} {i : Instr} (hflight : s.inFlight = some ⟨w, 0⟩) (hdecode : decode w = .ok i) :
    step s = completing (exec i s) := by
  simp [step, hflight, hdecode]

/-- Settles O33: EMIT is a run of output bytes with distinct indices, since it has at most 16 of them. -/
theorem emitRendersEval : Obligations.EmitRendersEval := by
  unfold Obligations.EmitRendersEval
  refine ⟨fun e skip => ⟨fun he => by rw [decode_emitWord, if_pos he],
    fun he i => by rw [decode_emitWord, if_neg (Nat.not_le.2 he)]; exact nofun⟩, fun e skip s => ?_⟩
  have hlen : (emitDigits s.evalReg.toNat e.toNat skip).1.length ≤ 2 ^ 32 := by
    have hplaces := length_emitDigits_le s.evalReg.toNat e.toNat skip
    have he := e.isLt
    omega
  have hbit := getLsbD_status_doEmit e.toNat skip s
  refine ⟨doEmit e.toNat skip s, rfl, ?frame, ?outptr, ?bytes, ?others, ?status, ?dovf, ?oovf,
    fun w hdecode hflight => step_of_due hflight hdecode⟩
  case frame => rw [doEmit_eq]
  case outptr => rw [doEmit_eq, BitVec.toNat_ofNat]
  case bytes => exact fun j b hb hin => (byteAt_doEmit ..).trans (s.outAt_outBytes hlen hb hin)
  case others => exact fun a ha => (byteAt_doEmit ..).trans (s.byteAt_outBytes_other ha)
  case status =>
    intro k _ hk
    simp only [List.mem_cons, List.not_mem_nil, or_false, not_or] at hk
    obtain ⟨hdovf, hoovf⟩ := hk
    rw [Bool.eq_iff_iff, hbit]
    simp [Flag.bit, hdovf, hoovf]
  case dovf => simpa [State.flag, Flag.bit] using hbit Flag.dovf.bit
  case oovf => simpa [State.flag, Flag.bit] using hbit Flag.oovf.bit

end Sys2Proof.Machine
end

section
/-! The fraction projection: the magnitude of a Q16.16 value, the carry of `Project` and its ranges (R73, R74), and what FPROJ
makes of the state (R75). -/

namespace Sys2Proof

/-! ### The words of the commands without fields (R56) -/

/-- A legal word whose opcode uses no field is that opcode, with 0 in all its other bits (R57). -/
theorem eq_setWidth_opField_of_decode {w : Word} {i : Instr} (hdecode : decode w = .ok i)
    (huse : usedFields (opField w).toNat = {}) : w = (opField w).setWidth 32 := by
  obtain ⟨-, hzero, -⟩ := (exists_decode_eq_ok_iff w).1 ⟨i, hdecode⟩
  have hfixed := (and_fixedMask_eq_iff {} w (opField w)).2 ⟨rfl, huse ▸ hzero⟩
  have hall : ({} : FieldUse).fixedMask = BitVec.allOnes 32 := by decide
  rwa [hall, BitVec.and_allOnes] at hfixed

/-- At an opcode that uses no field, the bare opcode is the only legal word (R57). -/
theorem decode_ne_ok_of_not_bare {w : Word} {op : BitVec 4} (hop : w.toNat % 16 = op.toNat)
    (huse : usedFields op.toNat = {}) (hne : w ≠ op.setWidth 32) (i : Instr) : decode w ≠ .ok i := by
  intro hdecode
  have hfield : opField w = op := BitVec.eq_of_toNat_eq (by simpa [opField] using hop)
  exact hne (hfield ▸ eq_setWidth_opField_of_decode hdecode (hfield ▸ huse))

end Sys2Proof

namespace Sys2Proof.Machine

/-! ### Sign and magnitude (R73, step 1) -/

/-- Bit 31 is the sign of a Q16.16 value. -/
theorem getLsbD_31_iff (vv : Word) : vv.getLsbD 31 = true ↔ vv.toInt < 0 := by
  rw [← BitVec.msb_eq_getLsbD_last, BitVec.msb_eq_toInt, decide_eq_true_eq]

/-- The magnitude is the absolute value of the signed value. -/
theorem magnitude_eq_natAbs (vv : Word) : magnitude vv = vv.toInt.natAbs := by
  have hlt := vv.isLt
  have hval := BitVec.toInt_eq_msb_cond vv
  have hsign := BitVec.msb_eq_decide vv
  rw [magnitude, ← BitVec.msb_eq_getLsbD_last]
  cases hmsb : vv.msb with
  | true =>
    rw [hmsb, if_pos rfl] at hval
    have hge : 2 ^ 31 ≤ vv.toNat := of_decide_eq_true (hsign.symm.trans hmsb)
    rw [if_pos rfl, Nat.mod_eq_of_lt (by omega)]
    omega
  | false =>
    rw [hmsb, if_neg Bool.false_ne_true] at hval
    rw [if_neg Bool.false_ne_true, hval, Int.natAbs_natCast]

/-- The magnitude is at most 2^31 (R74). -/
theorem magnitude_le (vv : Word) : magnitude vv ≤ 2 ^ 31 := by
  have hlow := BitVec.le_toInt vv
  have hhigh := BitVec.toInt_lt (x := vv)
  rw [magnitude_eq_natAbs]
  omega

/-- Only the most negative value has the integer part 32768 before the carry (R74). -/
theorem magnitude_div_eq_iff (vv : Word) : magnitude vv / 65536 = 32768 ↔ vv = 0x80000000#32 := by
  have hle := magnitude_le vv
  have hhigh := BitVec.toInt_lt (x := vv)
  have hmin : (0x80000000#32).toInt = -2147483648 := by decide
  rw [← BitVec.toInt_inj, hmin]
  rw [magnitude_eq_natAbs] at hle ⊢
  omega

/-! ### The scale table (R60) and the multiply (R62) -/

/-- The entries of the scale table. -/
theorem scale_cases (k : Nat) :
    scale k = 1 ∨ scale k = 10 ∨ scale k = 100 ∨ scale k = 1000 ∨ scale k = 10000 ∨ scale k = 100000 := by
  unfold scale
  split <;> decide

theorem scale_pos (k : Nat) : 0 < scale k := by
  have hcases := scale_cases k
  omega

theorem scale_le (k : Nat) : scale k ≤ 100000 := by
  have hcases := scale_cases k
  omega

/-- The digit count is DIGITS modulo 8 (R22). -/
theorem digitCount_eq_mod (dd : Word) : digitCount dd = dd.toNat % 8 := by
  simp [digitCount]

/-- The rounded product with a fraction is at most the scale (R74). -/
theorem mulr_nearestUp_le {a : Nat} (ha : a < 65536) (s : Nat) : mulr .nearestUp a s ≤ s := by
  have hprod : a * s ≤ 65535 * s := Nat.mul_le_mul_right s (by omega)
  rw [mulr]
  omega

/-- The truncated product with a fraction is below the scale (R74). -/
theorem mulr_truncate_lt {a s : Nat} (ha : a < 65536) (hs : 0 < s) : mulr .truncate a s < s :=
  Nat.div_lt_of_lt_mul (Nat.mul_lt_mul_of_pos_right ha hs)

/-- The product with a zero fraction is 0 in both roundings. -/
theorem mulr_zero (r : MulRound) (s : Nat) : mulr r 0 s = 0 := by
  cases r <;> simp [mulr]

/-- The rounded product reaches the scale exactly when it does before the division (R74). -/
theorem le_mulr_nearestUp_iff (a s : Nat) : s ≤ mulr .nearestUp a s ↔ s * 65536 ≤ a * s + 32768 :=
  Nat.le_div_iff_mul_le (by decide)

/-- The fractions at which the carry happens, scale by scale; at 100000 there is none (R74). -/
theorem scale_le_mulr_nearestUp_iff {a : Nat} (ha : a < 65536) (k : Nat) :
    scale k ≤ mulr .nearestUp a (scale k) ↔
      (scale k = 1 ∧ 0x8000 ≤ a) ∨ (scale k = 10 ∧ 0xF334 ≤ a) ∨ (scale k = 100 ∧ 0xFEB9 ≤ a) ∨
        (scale k = 1000 ∧ 0xFFE0 ≤ a) ∨ (scale k = 10000 ∧ 0xFFFD ≤ a) := by
  rw [le_mulr_nearestUp_iff]
  obtain h | h | h | h | h | h := scale_cases k <;> rw [h] <;> omega

/-! ### `Project` (R73) -/

/-- The scaled fraction before the carry: step 3 of `Project`. -/
def rawFraction (r : MulRound) (vv dd : Word) : Nat := mulr r (magnitude vv % 65536) (scale (digitCount dd))

section
variable (r : MulRound) (vv dd : Word)

/-- `Project` field by field, the carry decided by the scaled fraction. -/
theorem project_eq :
    project r vv dd =
      { neg := vv.getLsbD 31
        ip := if scale (digitCount dd) ≤ rawFraction r vv dd then magnitude vv / 65536 + 1 else magnitude vv / 65536
        fs := if scale (digitCount dd) ≤ rawFraction r vv dd then rawFraction r vv dd - scale (digitCount dd)
          else rawFraction r vv dd
        s := scale (digitCount dd) } := by
  by_cases hcarry : scale (digitCount dd) ≤ rawFraction r vv dd
  · rw [if_pos hcarry, if_pos hcarry]
    exact if_pos hcarry
  · rw [if_neg hcarry, if_neg hcarry]
    exact if_neg hcarry

@[simp] theorem project_neg : (project r vv dd).neg = vv.getLsbD 31 := by rw [project_eq]

@[simp] theorem project_s : (project r vv dd).s = scale (digitCount dd) := by rw [project_eq]

/-- The integer part takes the carry. -/
theorem project_ip :
    (project r vv dd).ip =
      if scale (digitCount dd) ≤ rawFraction r vv dd then magnitude vv / 65536 + 1 else magnitude vv / 65536 := by
  rw [project_eq]

/-- The carry takes the scale out of the fraction. -/
theorem project_fs :
    (project r vv dd).fs =
      if scale (digitCount dd) ≤ rawFraction r vv dd then rawFraction r vv dd - scale (digitCount dd)
      else rawFraction r vv dd := by
  rw [project_eq]

/-- The carry happened exactly when the integer part is one above that of the magnitude. -/
theorem project_ip_eq_succ_iff :
    (project r vv dd).ip = magnitude vv / 65536 + 1 ↔ scale (digitCount dd) ≤ rawFraction r vv dd := by
  rw [project_ip]
  split <;> simp [*]

/-- With TRUNCATE there is no carry (R74). -/
theorem rawFraction_truncate_lt : rawFraction .truncate vv dd < scale (digitCount dd) :=
  mulr_truncate_lt (Nat.mod_lt _ (by decide)) (scale_pos _)

/-- The scaled fraction is at most the scale, in both roundings (R74). -/
theorem rawFraction_le : rawFraction r vv dd ≤ scale (digitCount dd) := by
  cases r with
  | nearestUp => exact mulr_nearestUp_le (Nat.mod_lt _ (by decide)) _
  | truncate => exact (rawFraction_truncate_lt vv dd).le

/-- The fraction after the carry is below the scale (R74). -/
theorem project_fs_lt : (project r vv dd).fs < (project r vv dd).s := by
  have hle := rawFraction_le r vv dd
  have hpos := scale_pos (digitCount dd)
  rw [project_fs, project_s]
  split <;> omega

/-- The integer part after the carry is at most 32768: the one magnitude that reaches 32768 before it has a zero fraction
(R74). -/
theorem project_ip_le : (project r vv dd).ip ≤ 32768 := by
  have hmag := magnitude_le vv
  rw [project_ip]
  split
  · next hcarry =>
    by_contra hgt
    have hzero : magnitude vv % 65536 = 0 := by omega
    rw [rawFraction, hzero, mulr_zero] at hcarry
    exact absurd (scale_pos _) (Nat.not_lt.2 hcarry)
  · omega

end

/-- Settles O36: the carry happens when the scaled fraction reaches the scale, and the multiply says when that is. -/
theorem projectRanges : Obligations.ProjectRanges := by
  unfold Obligations.ProjectRanges
  intro vv dd
  have hfrac : magnitude vv % 65536 < 65536 := Nat.mod_lt _ (by decide)
  refine ⟨fun r => ⟨?sign, magnitude_le vv, project_ip_le r vv dd, project_fs_lt r vv dd, magnitude_div_eq_iff vv⟩,
    ?truncate, ?nearestUp⟩
  case sign => rw [project_neg, getLsbD_31_iff]
  case truncate =>
    have hno : ¬ scale (digitCount dd) ≤ rawFraction .truncate vv dd := Nat.not_le.2 (rawFraction_truncate_lt vv dd)
    exact ⟨(project_ip ..).trans (if_neg hno), by rw [project_fs, if_neg hno, project_s, rawFraction]⟩
  case nearestUp =>
    have hcarry := project_ip_eq_succ_iff .nearestUp vv dd
    simp only [ne_eq, hcarry, project_s]
    refine ⟨le_mulr_nearestUp_iff .., mulr_nearestUp_le hfrac _, fun h => ?zero, fun h => ?kept,
      scale_le_mulr_nearestUp_iff hfrac _⟩
    case zero => rw [project_fs, if_pos h, Nat.sub_eq_zero_of_le (rawFraction_le ..)]
    case kept => exact ⟨(project_ip ..).trans (if_neg h), (project_fs ..).trans (if_neg h)⟩

/-! ### FPROJ (R75) -/

/-- The scale of a digit count is that of DIGITS[2:0] in the table, whose last entries repeat (R22, R60). -/
theorem scale_digitCount (dd : Word) :
    scale (digitCount dd) = [1, 10, 100, 1000, 10000, 100000, 100000, 100000].getD (dd.toNat % 8) 0 := by
  rw [digitCount_eq_mod]
  exact (by decide : ∀ k < 8, scale k = [1, 10, 100, 1000, 10000, 100000, 100000, 100000].getD k 0) _
    (Nat.mod_lt _ (by decide))

/-- FSIGN holds the projection's sign as 0 or 1 (R75). -/
theorem toNat_fsign_writeProjection (s : State) (p : Projection) :
    (writeProjection s p).fsign.toNat = if p.neg then 1 else 0 := by
  cases h : p.neg <;> simp [writeProjection, h]

/-- A projection fits the registers: FINT, FFRAC and FSCALE hold it without a wrap. -/
theorem toNat_writeProjection_projection (s : State) :
    (writeProjection s s.projection).fint.toNat = s.projection.ip ∧
      (writeProjection s s.projection).ffrac.toNat = s.projection.fs ∧
      (writeProjection s s.projection).fscale.toNat = s.projection.s := by
  have hip : s.projection.ip ≤ 32768 := project_ip_le ..
  have hfs : s.projection.fs < s.projection.s := project_fs_lt ..
  have hs : s.projection.s ≤ 100000 := (project_s ..).trans_le (scale_le _)
  refine ⟨(BitVec.toNat_ofNat ..).trans (Nat.mod_eq_of_lt ?_), (BitVec.toNat_ofNat ..).trans (Nat.mod_eq_of_lt ?_),
    (BitVec.toNat_ofNat ..).trans (Nat.mod_eq_of_lt ?_)⟩ <;> omega

/-- Settles O35: FPROJ writes the projection, which fits its registers. -/
theorem fprojProjectsValue : Obligations.FprojProjectsValue := by
  unfold Obligations.FprojProjectsValue
  have hdecode : decode 0x00000002#32 = .ok .fproj := by decide
  refine ⟨hdecode, fun w i hop hne => decode_ne_ok_of_not_bare (op := 2#4) hop rfl hne i, fun s => ?_⟩
  refine ⟨writeProjection s s.projection, rfl, rfl, ?_, fun hflight => step_of_due hflight hdecode⟩
  obtain ⟨hint, hffrac, hscale⟩ := toNat_writeProjection_projection s
  have hsign : s.projection.neg = true ↔ s.value.toInt < 0 := by rw [State.projection, project_neg, getLsbD_31_iff]
  simp only [← scale_digitCount, ← magnitude_eq_natAbs]
  exact ⟨by simp only [toNat_fsign_writeProjection, hsign], hint.trans (project_ip ..), hffrac.trans (project_fs ..),
    hscale.trans (project_s ..)⟩

end Sys2Proof.Machine
end

section
/-! Parse arithmetic: the digit accumulators (R81, R83, R85), the accumulator's seed and ratio (R82, R84), the powers of ten of
PEXP with the count at which they leave nothing (R86, R87), and the down-conversion (R88). -/

namespace Sys2Proof.Machine

/-! ### The digit accumulators (R80, R81, R83, R85) -/

/-- The words of PIDIG, PFDIG and PEDIG are legal for d up to 9, and stand for nothing above (R57). -/
theorem decode_digitWord (d : BitVec 4) :
    ∀ row ∈ [(5, Instr.pidig), (7, Instr.pfdig), (9, Instr.pedig)],
      decode (BitVec.ofNat 32 (row.1 + 256 * d.toNat)) =
        if d.toNat ≤ 9 then .ok (row.2 d) else .error .argTooLarge := by
  revert d
  decide

/-- A word that is legal for d up to 9 only stands for its command there, and for none above. -/
theorem decode_of_ite {w : Word} {i : Instr} {e : Illegal} {d : BitVec 4}
    (h : decode w = if d.toNat ≤ 9 then .ok i else .error e) :
    (d.toNat ≤ 9 → decode w = .ok i) ∧ (9 < d.toNat → ∀ j, decode w ≠ .ok j) :=
  ⟨fun hle => h.trans (if_pos hle), fun hgt j => by rw [h, if_neg (Nat.not_le.2 hgt)]; exact nofun⟩

/-- A digit goes in below the digits read, modulo 2^32 (R79). -/
@[simp] theorem toNat_timesTenPlus (x : Word) (d : Nat) : (timesTenPlus x d).toNat = (x.toNat * 10 + d) % 2 ^ 32 :=
  BitVec.toNat_ofNat ..

/-- PFDIG takes the digit below the cap (R83). -/
theorem doPfdig_of_lt (d : Nat) {s : State} (h : s.fscl.toNat < 100000000) :
    doPfdig d s = { s with fscl := BitVec.ofNat 32 (s.fscl.toNat * 10), fval := timesTenPlus s.fval d } :=
  if_pos h

/-- PFDIG does nothing from the cap on (R83). -/
theorem doPfdig_of_ge (d : Nat) {s : State} (h : 100000000 ≤ s.fscl.toNat) : doPfdig d s = s :=
  if_neg (Nat.not_lt.2 h)

/-- Settles O40: a second PCLR writes what the first one left. -/
theorem pclrClearsWorkingState : Obligations.PclrClearsWorkingState := by
  unfold Obligations.PclrClearsWorkingState
  have hdecode : decode 0x00000004#32 = .ok .pclr := by decide
  exact ⟨hdecode, fun w i hop hne => decode_ne_ok_of_not_bare (op := 4#4) hop rfl hne i,
    fun s => ⟨doPclr s, rfl, rfl, (by decide : 0#32 ++ 0#32 = 0#64), rfl, fun hflight => step_of_due hflight hdecode⟩⟩

/-- Settles O41: the digit goes into IACC, and ICNT counts it. -/
theorem pidigAccumulatesDigit : Obligations.PidigAccumulatesDigit := by
  unfold Obligations.PidigAccumulatesDigit
  intro d
  obtain ⟨hlegal, hillegal⟩ := decode_of_ite (decode_digitWord d (5, .pidig) (by simp))
  exact ⟨hlegal, hillegal, fun s => ⟨doPidig d.toNat s, rfl, rfl, toNat_timesTenPlus .., BitVec.toNat_ofNat ..,
    fun hd hflight => step_of_due hflight (hlegal hd)⟩⟩

/-- Settles O43, by the two sides of the cap; below it FSCL times ten is below 10^9, so nothing wraps. -/
theorem pfdigAccumulatesUnderCap : Obligations.PfdigAccumulatesUnderCap := by
  unfold Obligations.PfdigAccumulatesUnderCap
  intro d
  obtain ⟨hlegal, hillegal⟩ := decode_of_ite (decode_digitWord d (7, .pfdig) (by simp))
  refine ⟨hlegal, hillegal, fun s => ⟨doPfdig d.toNat s, rfl, doPfdig_eq .., fun hlt => ?_, doPfdig_of_ge _,
    fun hd hflight => step_of_due hflight (hlegal hd)⟩⟩
  rw [doPfdig_of_lt _ hlt]
  exact ⟨(BitVec.toNat_ofNat ..).trans (Nat.mod_eq_of_lt (by omega)), toNat_timesTenPlus ..⟩

/-- Settles O45: the digit goes into EXPM. -/
theorem pedigAccumulatesExponent : Obligations.PedigAccumulatesExponent := by
  unfold Obligations.PedigAccumulatesExponent
  intro d
  obtain ⟨hlegal, hillegal⟩ := decode_of_ite (decode_digitWord d (9, .pedig) (by simp))
  exact ⟨hlegal, hillegal, fun s => ⟨doPedig d.toNat s, rfl, rfl, toNat_timesTenPlus ..,
    fun hd hflight => step_of_due hflight (hlegal hd)⟩⟩

/-! ### The accumulator (R82, R84) -/

/-- ACC as a number: ACC_HI counts 2^32 (R34). -/
theorem State.toNat_acc (s : State) : s.acc.toNat = s.accHi.toNat * 2 ^ 32 + s.accLo.toNat := by
  rw [State.acc, BitVec.toNat_append, ← Nat.shiftLeft_add_eq_or_of_lt s.accLo.isLt, Nat.shiftLeft_eq]

/-- Settles O42: ACC_HI takes IACC, and ACC_LO is 0. -/
theorem pseedSeedsAccumulator : Obligations.PseedSeedsAccumulator := by
  unfold Obligations.PseedSeedsAccumulator
  have hdecode : decode 0x00000006#32 = .ok .pseed := by decide
  exact ⟨hdecode, fun w i hop hne => decode_ne_ok_of_not_bare (op := 6#4) hop rfl hne i,
    fun s => ⟨doPseed s, rfl, rfl, (State.toNat_acc _).trans (Nat.add_zero _), fun hflight => step_of_due hflight hdecode⟩⟩

/-- The ratio of two registers, scaled by 2^32, fits the accumulator (R84). -/
theorem ratio_lt (v d : Word) : v.toNat * 2 ^ 32 / d.toNat < 2 ^ 64 :=
  calc v.toNat * 2 ^ 32 / d.toNat ≤ v.toNat * 2 ^ 32 := Nat.div_le_self ..
    _ < 2 ^ 64 := by have hv := v.isLt; omega

/-- Settles O44: FSCL = 0 raises DZ, and any other FSCL divides. -/
theorem pfcombAddsExactRatio : Obligations.PfcombAddsExactRatio := by
  unfold Obligations.PfcombAddsExactRatio
  have hdecode : decode 0x00000008#32 = .ok .pfcomb := by decide
  refine ⟨hdecode, fun w i hop hne => decode_ne_ok_of_not_bare (op := 8#4) hop rfl hne i, fun s => ?_⟩
  obtain ⟨h0, heq⟩ | ⟨hpos, heq⟩ := doPfcomb_cases s
  · have hexec : exec .pfcomb s = .next (s.raise .dz) := congrArg Host.Outcome.next heq
    have hzero : s.fscl = 0 := BitVec.eq_of_toNat_eq h0
    refine ⟨_, hexec, fun _ => ⟨rfl, by simp [flag_raise], fun k _ hk => ?_⟩, fun hne => absurd hzero hne,
      fun hflight => (step_of_due hflight hdecode).trans (congrArg completing hexec)⟩
    have hdz : k ≠ Flag.dz.bit := List.ne_of_not_mem_cons hk
    rw [State.raise_status, getLsbD_setFlag, decide_eq_false hdz, Bool.or_false]
  · have hexec : exec .pfcomb s = .next (s.setAcc _) := congrArg Host.Outcome.next heq
    refine ⟨_, hexec, fun h0 => absurd (congrArg BitVec.toNat h0) hpos, fun _ => ⟨rfl, ratio_lt .., ?_⟩,
      fun hflight => (step_of_due hflight hdecode).trans (congrArg completing hexec)⟩
    rw [State.acc_setAcc, BitVec.toNat_ofNat]

/-! ### Powers of ten (R86, R87) -/

/-- One step of PEXP on numbers. -/
theorem toNat_tenStep (down : Bool) (a : Wide) :
    (tenStep down a).toNat = if down then a.toNat / 10 else a.toNat * 10 % 2 ^ 64 := by
  cases down with
  | false => exact BitVec.toNat_ofNat ..
  | true => exact (BitVec.toNat_ofNat ..).trans (Nat.mod_eq_of_lt ((Nat.div_le_self ..).trans_lt a.isLt))

/-- The steps of PEXP on numbers. -/
theorem toNat_tenSteps (down : Bool) (n : Nat) (a : Wide) :
    (tenSteps down n a).toNat = Nat.iterate (fun a => if down then a / 10 else a * 10 % 2 ^ 64) n a.toNat := by
  induction n generalizing a with
  | zero => rfl
  | succ n ih => rw [tenSteps, ih, toNat_tenStep, Function.iterate_succ_apply]

/-- `n` steps up multiply by 10^n modulo 2^64 (R87). -/
theorem toNat_tenSteps_false (n : Nat) (a : Wide) : (tenSteps false n a).toNat = a.toNat * 10 ^ n % 2 ^ 64 := by
  induction n generalizing a with
  | zero => rw [tenSteps, Nat.pow_zero, Nat.mul_one, Nat.mod_eq_of_lt a.isLt]
  | succ n ih => rw [tenSteps, ih, toNat_tenStep, if_neg Bool.false_ne_true, Nat.mod_mul_mod, pow_succ' 10 n,
    Nat.mul_assoc]

/-- `n` steps down divide by 10^n (R87). -/
theorem toNat_tenSteps_true (n : Nat) (a : Wide) : (tenSteps true n a).toNat = a.toNat / 10 ^ n := by
  induction n generalizing a with
  | zero => rw [tenSteps, Nat.pow_zero, Nat.div_one]
  | succ n ih => rw [tenSteps, ih, toNat_tenStep, if_pos rfl, Nat.div_div_eq_div_mul, Nat.pow_succ']

/-- From 64 steps up on nothing is left, since 2^64 divides 10^64 (R87). -/
theorem tenSteps_false_eq_zero {n : Nat} (hn : 64 ≤ n) (a : Wide) : tenSteps false n a = 0 := by
  have hdvd : 2 ^ 64 ∣ 10 ^ n := (pow_dvd_pow_of_dvd (by decide) 64).trans (pow_dvd_pow 10 hn)
  refine BitVec.eq_of_toNat_eq ((toNat_tenSteps_false n a).trans ?_)
  exact Nat.mod_eq_zero_of_dvd (hdvd.mul_left _)

/-- From 20 steps down on nothing is left, since 2^64 is below 10^20 (R87). -/
theorem tenSteps_true_eq_zero {n : Nat} (hn : 20 ≤ n) (a : Wide) : tenSteps true n a = 0 := by
  have hlt : a.toNat < 10 ^ n :=
    calc a.toNat < 2 ^ 64 := a.isLt
      _ ≤ 10 ^ 20 := by decide
      _ ≤ 10 ^ n := Nat.pow_le_pow_right (by decide) hn
  exact BitVec.eq_of_toNat_eq ((toNat_tenSteps_true n a).trans (Nat.div_eq_of_lt hlt))

/-- Steps beyond the 64th change no result (R87). -/
theorem tenSteps_min (down : Bool) (n : Nat) (a : Wide) : tenSteps down n a = tenSteps down (min n 64) a := by
  obtain hle | hge := Nat.le_total n 64
  · rw [Nat.min_eq_left hle]
  · rw [Nat.min_eq_right hge]
    cases down with
    | false => rw [tenSteps_false_eq_zero hge, tenSteps_false_eq_zero le_rfl]
    | true => rw [tenSteps_true_eq_zero (by omega), tenSteps_true_eq_zero (by decide)]

/-- PEXP leaves in ACC what all EXPM steps give, though it stops after 64. -/
theorem acc_doPexp (s : State) : (doPexp s).acc = tenSteps (expNegFlag s.pflags) s.expm.toNat s.acc := by
  rw [doPexp, State.acc_setAcc, ← tenSteps_min]

/-- Settles O46: the steps of PEXP, on numbers. -/
theorem pexpRepeatsTenStep : Obligations.PexpRepeatsTenStep := by
  unfold Obligations.PexpRepeatsTenStep
  have hdecode : decode 0x0000000A#32 = .ok .pexp := by decide
  refine ⟨hdecode, fun w i hop hne => decode_ne_ok_of_not_bare (op := 10#4) hop rfl hne i, fun s => ?_⟩
  exact ⟨doPexp s, rfl, rfl, by rw [acc_doPexp, toNat_tenSteps, expNegFlag],
    fun hflight => step_of_due hflight hdecode⟩

/-- Settles O47, by the direction of the steps. -/
theorem pexpClosedForm : Obligations.PexpClosedForm := by
  unfold Obligations.PexpClosedForm
  intro s
  have hacc := acc_doPexp s
  refine ⟨doPexp s, rfl, fun hup => ?up, fun hdown => ?down, tenSteps_min _⟩
  case up =>
    rw [expNegFlag, hup] at hacc
    rw [hacc]
    exact ⟨toNat_tenSteps_false .., fun hn => tenSteps_false_eq_zero hn _⟩
  case down =>
    rw [expNegFlag, hdown] at hacc
    rw [hacc]
    exact ⟨toNat_tenSteps_true .., fun hn => tenSteps_true_eq_zero hn _⟩

/-! ### Down-conversion (R88) -/

/-- A legal word of PDOWN is one of two, which SHIFT tells apart (R57). -/
theorem eq_pdownWord_of_decode {w : Word} {i : Instr} (hdecode : decode w = .ok i) (hop : opField w = 0xB#4) :
    w = if shiftField w then 0x0000400B#32 else 0x0000000B#32 := by
  obtain ⟨-, hzero, -⟩ := (exists_decode_eq_ok_iff w).1 ⟨i, hdecode⟩
  have huse : usedFields (opField w).toNat = { shift := true } := by rw [hop]; rfl
  simp only [huse, unusedZero, Bool.and_eq_true, beq_iff_eq, Bool.false_or, Bool.not_eq_true'] at hzero
  obtain ⟨⟨⟨⟨⟨hrsv0, hrsv1⟩, harg⟩, hskip⟩, haexp⟩, -⟩ := hzero
  cases hshift : shiftField w with
  | false => exact word_ext_fields hop hrsv0 harg hskip haexp hshift hrsv1
  | true => exact word_ext_fields hop hrsv0 harg hskip haexp hshift hrsv1

/-- RESULT after PDOWN on numbers (R88). -/
theorem toNat_result_doPdown (sh : Bool) (s : State) :
    (doPdown sh s).result.toNat =
      if negFlag s.pflags then (2 ^ 32 - downShift s.params.downcvtRound sh s.acc.toNat % 2 ^ 32) % 2 ^ 32
      else downShift s.params.downcvtRound sh s.acc.toNat % 2 ^ 32 := by
  cases hneg : negFlag s.pflags <;> simp [doPdown, negate32, hneg]

/-- Settles O48: RESULT takes the shifted accumulator, negated when NEG is set. -/
theorem pdownConvertsAccumulator : Obligations.PdownConvertsAccumulator := by
  unfold Obligations.PdownConvertsAccumulator
  have hplain : decode 0x0000000B#32 = .ok (.pdown false) := by decide
  have hshift : decode 0x0000400B#32 = .ok (.pdown true) := by decide
  refine ⟨hplain, hshift, fun w i hop hne hne' hdecode => ?words, fun sh s => ⟨doPdown sh s, rfl, rfl, ?result, ?step⟩⟩
  case words =>
    have hword := eq_pdownWord_of_decode hdecode (BitVec.eq_of_toNat_eq (by simpa [opField] using hop))
    split at hword
    · exact hne' hword
    · exact hne hword
  case result =>
    have hres := toNat_result_doPdown sh s
    rw [negFlag] at hres
    intro k a
    have ha : downShift s.params.downcvtRound sh s.acc.toNat = a / 2 ^ k := by
      simp only [downShift, a, k]
      cases s.params.downcvtRound <;> rfl
    rw [ha] at hres
    exact ⟨fun hpos => by rw [hres, hpos, if_neg Bool.false_ne_true], fun hneg => by rw [hres, hneg, if_pos rfl]⟩
  case step =>
    intro hflight
    cases sh with
    | false => exact step_of_due hflight hplain
    | true => exact step_of_due hflight hshift

end Sys2Proof.Machine
end

section
/-! The text that PARSE reads (R91): where each part of a number text begins, and the byte that ends each part's scan. -/

namespace Sys2Proof.Machine

/-! ### Text at an index -/

theorem TextAt.cons_iff {s : State} {p : Nat} {b : Byte} {bs : List Byte} :
    TextAt s p (b :: bs) ↔ s.textAt p = b ∧ TextAt s (p + 1) bs := by
  constructor
  · intro h
    refine ⟨h 0 b rfl, fun j c hc => ?_⟩
    rw [Nat.add_assoc, Nat.add_comm 1 j]
    exact h (j + 1) c hc
  · rintro ⟨hb, hbs⟩ j c hc
    cases j with
    | zero => exact hb.trans (Option.some.inj hc)
    | succ j =>
      rw [Nat.add_comm j 1, ← Nat.add_assoc]
      exact hbs j c hc

theorem TextAt.append_iff {s : State} {p : Nat} {as bs : List Byte} :
    TextAt s p (as ++ bs) ↔ TextAt s p as ∧ TextAt s (p + as.length) bs := by
  induction as generalizing p with
  | nil => simp [TextAt]
  | cons a as ih => rw [List.cons_append, cons_iff, cons_iff, ih, and_assoc, List.length_cons, Nat.add_assoc,
      Nat.add_comm 1]

/-- A text without 0x00 lies below TXT_LEN (R64). -/
theorem TextAt.end_le {s : State} {p : Nat} {bs : List Byte} (h : TextAt s p bs) (hnul : chNul ∉ bs) (hne : bs ≠ []) :
    p + bs.length ≤ s.params.txtLen := by
  by_contra hlt
  have hpos := List.length_pos_iff.2 hne
  have hlast := h (bs.length - 1) _ (List.getElem?_eq_getElem (by omega))
  rw [textAt_beyond (by omega)] at hlast
  exact hnul (hlast ▸ List.getElem_mem _)

/-- A text without 0x00 is no longer than TXT. -/
theorem TextAt.length_le {s : State} {p : Nat} {bs : List Byte} (h : TextAt s p bs) (hnul : chNul ∉ bs) :
    bs.length ≤ s.params.txtLen := by
  obtain rfl | hne := eq_or_ne bs []
  · exact Nat.zero_le _
  · have := h.end_le hnul hne
    omega

/-! ### The byte classes of R63 exclude each other -/

theorem ne_nul_of_isDigit {c : Byte} (h : isDigit c = true) : c ≠ chNul := by
  rintro rfl
  exact absurd h (by decide)

theorem ne_sign_of_isDigit {c : Byte} (h : isDigit c = true) : c ≠ chPlus ∧ c ≠ chMinus :=
  ⟨by rintro rfl; exact absurd h (by decide), by rintro rfl; exact absurd h (by decide)⟩

theorem eq_of_isSep {p : Params} {c : Byte} (h : isSep p c = true) : c = chDot ∨ c = chComma := by
  simp only [isSep, Bool.or_eq_true, Bool.and_eq_true, beq_iff_eq] at h
  exact h.imp_right And.right

theorem eq_of_isExpMark {c : Byte} (h : isExpMark c = true) : c = 0x45#8 ∨ c = 0x65#8 := by
  simpa only [isExpMark, Bool.or_eq_true, beq_iff_eq] using h

theorem isDigit_of_isSep {p : Params} {c : Byte} (h : isSep p c = true) : isDigit c = false := by
  obtain rfl | rfl := eq_of_isSep h <;> rfl

theorem isDigit_of_isExpMark {c : Byte} (h : isExpMark c = true) : isDigit c = false := by
  obtain rfl | rfl := eq_of_isExpMark h <;> rfl

theorem isExpMark_of_isDigit {c : Byte} (h : isDigit c = true) : isExpMark c = false := by
  by_contra hmark
  rw [isDigit_of_isExpMark (by simpa using hmark)] at h
  exact absurd h Bool.false_ne_true

theorem isSep_of_isExpMark {c : Byte} (h : isExpMark c = true) (p : Params) : isSep p c = false := by
  by_contra hsep
  obtain rfl | rfl := eq_of_isSep (by simpa using hsep) <;> exact absurd h (by decide)

/-- With legal parameters 0x00, a sign and a digit are no whitespace (R8). -/
theorem isSpace_of_barred {p : Params} (hwf : p.wf = true) {c : Byte} (hc : Params.barredFromWs c = true) :
    isSpace p c = false := by
  simp only [Params.wf, Bool.and_eq_true, List.all_eq_true] at hwf
  obtain ⟨⟨-, hws⟩, -⟩ := hwf
  simp only [isSpace, decide_eq_false_iff_not]
  intro hmem
  simpa [hc] using hws c hmem

theorem isSpace_of_isDigit {p : Params} (hwf : p.wf = true) {c : Byte} (hc : isDigit c = true) : isSpace p c = false :=
  isSpace_of_barred hwf (by rw [Params.barredFromWs, ← isDigit, hc, Bool.or_true])

/-! ### Runs of digits and signs -/

theorem isDigit_of_mem_digitBytes {ds : List (Fin 10)} {c : Byte} (h : c ∈ digitBytes ds) : isDigit c = true := by
  obtain ⟨d, -, rfl⟩ := List.mem_map.1 h
  exact isDigit_digitByte d.isLt

theorem nul_notMem_digitBytes (ds : List (Fin 10)) : chNul ∉ digitBytes ds :=
  fun h => ne_nul_of_isDigit (isDigit_of_mem_digitBytes h) rfl

@[simp] theorem length_digitBytes (ds : List (Fin 10)) : (digitBytes ds).length = ds.length := List.length_map ..

theorem TextAt.length_digits_le {s : State} {p : Nat} {ds : List (Fin 10)} (h : TextAt s p (digitBytes ds)) :
    ds.length ≤ s.params.txtLen :=
  (length_digitBytes ds).symm.trans_le (h.length_le (nul_notMem_digitBytes ds))

/-- A run of digits that is there begins with a digit. -/
theorem TextAt.isDigit_of_ne_nil {s : State} {p : Nat} {ds : List (Fin 10)} (h : TextAt s p (digitBytes ds))
    (hne : ds ≠ []) : isDigit (s.textAt p) = true := by
  obtain ⟨d, ds, rfl⟩ := List.exists_cons_of_ne_nil hne
  rw [(TextAt.cons_iff.1 h).1]
  exact isDigit_digitByte d.isLt

theorem nul_notMem_signBytes (sg : Option Bool) : chNul ∉ signBytes sg := by
  revert sg
  decide

/-! ### The parts of a number text -/

namespace NumText

/-- Where the sign begins, in a text that begins at `p`. -/
def signStart (x : NumText) (p : Nat) : Nat := p + x.ws.length

/-- Where the integer digits begin. -/
def intStart (x : NumText) (p : Nat) : Nat := x.signStart p + (signBytes x.sign).length

/-- Where the fraction begins. -/
def fracStart (x : NumText) (p : Nat) : Nat := x.intStart p + x.ints.length

/-- Where the exponent begins. -/
def expStart (x : NumText) (p : Nat) : Nat := x.fracStart p + x.fracBytes.length

/-- Where the ignored digits begin. -/
def extraStart (x : NumText) (p : Nat) : Nat := x.expStart p + x.expBytes.length

theorem add_length_bytes (x : NumText) (p : Nat) : p + x.bytes.length = x.extraStart p + x.extra.length := by
  simp only [bytes, extraStart, expStart, fracStart, intStart, signStart, List.length_append, length_digitBytes,
    Nat.add_assoc]

/-- Without an exponent the ignored digits begin where it would. -/
theorem extraStart_of_exp_none {x : NumText} (h : x.exp = none) (p : Nat) : x.extraStart p = x.expStart p := by
  simp [extraStart, expBytes, h]

/-- What `ok` demands of the parts of a text (R90, R91). -/
structure Legal (x : NumText) (p : Params) (ae : Bool) : Prop where
  ws : ∀ c ∈ x.ws, isSpace p c = true
  ints : x.ints ≠ []
  frac : ∀ {sep ds}, x.frac = some (sep, ds) → isSep p sep = true ∧ ds.length ≤ 8
  exp : ∀ {mark sg ds}, x.exp = some (mark, sg, ds) →
    ae = true ∧ isExpMark mark = true ∧ (ds ≠ [] ∨ p.expBacktrack = false)
  extra : x.extra = [] ∨ x.fracDigits.length = 8 ∧ x.exp = none

theorem Legal.isExpMark {x : NumText} {p : Params} {ae : Bool} (h : x.Legal p ae) {mark : Byte} {sg : Option Bool}
    {ds : List (Fin 10)} (hexp : x.exp = some (mark, sg, ds)) : isExpMark mark = true := by
  obtain ⟨-, hmark, -⟩ := h.exp hexp
  exact hmark

theorem legal_of_ok {x : NumText} {p : Params} {ae : Bool} (h : x.ok p ae = true) : x.Legal p ae := by
  obtain ⟨ws, sign, ints, frac, exp, extra⟩ := x
  simp only [ok, Bool.and_eq_true] at h
  obtain ⟨⟨⟨⟨hws, hints⟩, hfrac⟩, hexp⟩, hextra⟩ := h
  refine ⟨List.all_eq_true.1 hws, by simpa using hints, ?_, ?_, by simpa using hextra⟩
  · rintro sep ds rfl
    simpa using hfrac
  · rintro mark sg ds rfl
    simpa [and_assoc] using hexp

/-- What `stopsAt` demands of the bytes after a text, `next` giving them (R89, R90). -/
structure Ends (x : NumText) (p : Params) (ae : Bool) (next : Nat → Byte) : Prop where
  digit : isDigit (next 0) = false
  sep : x.frac = none → x.exp = none → isSep p (next 0) = false
  mark : x.exp = none → x.extra = [] → ae = true → isExpMark (next 0) = true →
    p.expBacktrack = true ∧ noExponentDigit next = true
  sign : ∀ {mark}, x.exp = some (mark, none, []) → next 0 ≠ chPlus ∧ next 0 ≠ chMinus

theorem ends_of_stopsAt {x : NumText} {p : Params} {ae : Bool} {next : Nat → Byte} (h : x.stopsAt p ae next = true) :
    x.Ends p ae next := by
  obtain ⟨ws, sign, ints, frac, exp, extra⟩ := x
  simp only [stopsAt, Bool.and_eq_true] at h
  obtain ⟨⟨⟨hdigit, hsep⟩, hmark⟩, hsign⟩ := h
  refine ⟨by simpa using hdigit, ?_, ?_, ?_⟩
  · rintro rfl rfl
    simpa using hsep
  · rintro rfl rfl rfl hexp
    simpa [hexp] using hmark
  · rintro mark rfl
    simpa using hsign

end NumText

/-- Two states with the same buffers and parameters, and so the same text. -/
structure SameText (t s : State) : Prop where
  mem : t.mem = s.mem
  params : t.params = s.params
  resets : t.resets = s.resets

/-- Each part of the text stands where it begins. -/
structure TextParts (s : State) (p : Nat) (x : NumText) : Prop where
  ws : TextAt s p x.ws
  sign : TextAt s (x.signStart p) (signBytes x.sign)
  ints : TextAt s (x.intStart p) (digitBytes x.ints)
  frac : TextAt s (x.fracStart p) x.fracBytes
  exp : TextAt s (x.expStart p) x.expBytes
  extra : TextAt s (x.extraStart p) (digitBytes x.extra)

/-- PARSE with the option `ae` reads exactly the number text `x` at index `p`: the premises that R92 is stated under. -/
structure ReadsText (ae : Bool) (s : State) (p : Nat) (x : NumText) : Prop where
  wf : s.params.wf = true
  ok : x.ok s.params ae = true
  text : TextAt s p x.bytes
  stops : x.stopsAt s.params ae (s.textFrom (p + x.bytes.length)) = true

namespace ReadsText

variable {ae : Bool} {s : State} {p : Nat} {x : NumText}

/-- What is read is a matter of the text and the parameters alone. -/
theorem congr {t : State} (h : ReadsText ae s p x) (hsame : SameText t s) : ReadsText ae t p x := by
  have htext : t.textAt = s.textAt := funext (textAt_congr hsame.mem hsame.params hsame.resets)
  have hfrom : t.textFrom = s.textFrom := funext fun q => funext fun k => congrFun htext (q + k)
  obtain ⟨hwf, hok, hat, hstop⟩ := h
  rw [← hsame.params] at hwf hok hstop
  exact ⟨hwf, hok, by rwa [TextAt, htext], by rwa [hfrom]⟩

theorem legal (h : ReadsText ae s p x) : x.Legal s.params ae := NumText.legal_of_ok h.ok

theorem ends (h : ReadsText ae s p x) : x.Ends s.params ae (s.textFrom (x.extraStart p + x.extra.length)) :=
  NumText.ends_of_stopsAt (x.add_length_bytes p ▸ h.stops)

theorem parts (h : ReadsText ae s p x) : TextParts s p x := by
  have htext := h.text
  simp only [NumText.bytes, TextAt.append_iff, List.length_append, length_digitBytes, ← Nat.add_assoc] at htext
  obtain ⟨⟨⟨⟨⟨hws, hsign⟩, hints⟩, hfrac⟩, hexp⟩, hextra⟩ := htext
  exact ⟨hws, hsign, hints, hfrac, hexp, hextra⟩

/-- No byte of the text is 0x00. -/
theorem nul_notMem (h : ReadsText ae s p x) : chNul ∉ x.bytes := by
  have hwsNul : chNul ∉ x.ws := fun hmem =>
    absurd ((isSpace_nul h.wf).symm.trans (h.legal.ws _ hmem)) Bool.false_ne_true
  have hfracNul : chNul ∉ x.fracBytes := by
    unfold NumText.fracBytes
    split
    · exact List.not_mem_nil
    · next sep ds heq =>
      refine List.not_mem_cons_of_ne_of_not_mem ?_ (nul_notMem_digitBytes ds)
      obtain rfl | rfl := eq_of_isSep (h.legal.frac heq).1 <;> decide
  have hexpNul : chNul ∉ x.expBytes := by
    unfold NumText.expBytes
    split
    · exact List.not_mem_nil
    · next mark sg ds heq =>
      refine List.not_mem_cons_of_ne_of_not_mem ?_ (by simp [nul_notMem_signBytes, nul_notMem_digitBytes])
      obtain rfl | rfl := eq_of_isExpMark (h.legal.isExpMark heq) <;> decide
  simp [NumText.bytes, hwsNul, hfracNul, hexpNul, nul_notMem_signBytes, nul_notMem_digitBytes]

/-- The text ends within TXT, so its end fits PEND. -/
theorem end_le (h : ReadsText ae s p x) : p + x.bytes.length ≤ s.params.txtLen :=
  h.text.end_le h.nul_notMem (by simp [NumText.bytes, digitBytes, h.legal.ints])

/-- No digit follows the text. -/
theorem isDigit_end (h : ReadsText ae s p x) : isDigit (s.textAt (x.extraStart p + x.extra.length)) = false :=
  h.ends.digit

/-- Ignored digits follow only 8 fraction digits and no exponent (R91). -/
theorem extra_eq_nil (h : ReadsText ae s p x) (hcase : x.exp ≠ none ∨ x.fracDigits.length ≠ 8) : x.extra = [] :=
  h.legal.extra.resolve_right fun ⟨hlen, hnone⟩ => hcase.elim (· hnone) (· hlen)

/-- The integer digits begin with a digit. -/
theorem isDigit_intStart (h : ReadsText ae s p x) : isDigit (s.textAt (x.intStart p)) = true :=
  h.parts.ints.isDigit_of_ne_nil h.legal.ints

/-- No whitespace follows the whitespace. -/
theorem isSpace_signStart (h : ReadsText ae s p x) : isSpace s.params (s.textAt (x.signStart p)) = false := by
  have hsign := h.parts.sign
  have hint := h.isDigit_intStart
  rw [NumText.intStart] at hint
  cases hsg : x.sign with
  | none =>
    rw [hsg] at hint
    exact isSpace_of_isDigit h.wf hint
  | some neg =>
    rw [hsg] at hsign
    cases neg <;> rw [(TextAt.cons_iff.1 hsign).1] <;> exact isSpace_of_barred h.wf rfl

/-- With no fraction, no separator follows the integer digits. -/
theorem isSep_fracStart (h : ReadsText ae s p x) (hfrac : x.frac = none) :
    isSep s.params (s.textAt (x.fracStart p)) = false := by
  have hat := h.parts.exp
  have hstart : x.expStart p = x.fracStart p := by simp [NumText.expStart, NumText.fracBytes, hfrac]
  cases hx : x.exp with
  | some e =>
    rw [NumText.expBytes, hx, hstart] at hat
    rw [(TextAt.cons_iff.1 hat).1]
    exact isSep_of_isExpMark (h.legal.isExpMark hx) _
  | none =>
    have hextra := h.extra_eq_nil (.inr (by simp [NumText.fracDigits, hfrac]))
    have hsep := h.ends.sep hfrac hx
    rw [hextra, NumText.extraStart_of_exp_none hx, hstart] at hsep
    exact hsep

/-- The fraction digits are 8, or no digit follows them. -/
theorem isDigit_expStart (h : ReadsText ae s p x) :
    x.fracDigits.length = 8 ∨ isDigit (s.textAt (x.expStart p)) = false := by
  refine or_iff_not_imp_left.2 fun hlen => ?_
  have hat := h.parts.exp
  cases hx : x.exp with
  | some e =>
    rw [NumText.expBytes, hx] at hat
    rw [(TextAt.cons_iff.1 hat).1]
    exact isDigit_of_isExpMark (h.legal.isExpMark hx)
  | none =>
    have hend := h.isDigit_end
    rwa [h.extra_eq_nil (.inr hlen), NumText.extraStart_of_exp_none hx] at hend

/-- No digit follows the integer digits. -/
theorem isDigit_fracStart (h : ReadsText ae s p x) : isDigit (s.textAt (x.fracStart p)) = false := by
  have hat := h.parts.frac
  cases hx : x.frac with
  | some f =>
    rw [NumText.fracBytes, hx] at hat
    rw [(TextAt.cons_iff.1 hat).1]
    exact isDigit_of_isSep (h.legal.frac hx).1
  | none => simpa [NumText.expStart, NumText.fracBytes, NumText.fracDigits, hx] using h.isDigit_expStart

/-- An exponent marker that follows a text without an exponent, where one would be recognised, is given back: EXP_BACKTRACK is
set, and no exponent digit follows (R89 step 7). -/
theorem givenBack (h : ReadsText ae s p x) (hexp : x.exp = none) (hae : ae = true)
    (hmark : isExpMark (s.textAt (x.expStart p)) = true) :
    s.params.expBacktrack = true ∧ NumText.noExponentDigit (s.textFrom (x.expStart p)) = true := by
  have hat := h.parts.extra
  rw [NumText.extraStart_of_exp_none hexp] at hat
  have hextra : x.extra = [] := by
    by_contra hne
    rw [isExpMark_of_isDigit (hat.isDigit_of_ne_nil hne)] at hmark
    exact absurd hmark Bool.false_ne_true
  have hback := h.ends.mark hexp hextra hae
  rw [hextra, NumText.extraStart_of_exp_none hexp] at hback
  exact hback hmark

/-- After an exponent marker without a sign stands no sign. -/
theorem ne_sign_after_mark (h : ReadsText ae s p x) {mark : Byte} {ds : List (Fin 10)}
    (hexp : x.exp = some (mark, none, ds)) :
    s.textAt (x.expStart p + 1) ≠ chPlus ∧ s.textAt (x.expStart p + 1) ≠ chMinus := by
  cases ds with
  | nil =>
    have hend : x.extraStart p = x.expStart p + 1 := by
      simp [NumText.extraStart, NumText.expBytes, hexp, signBytes, digitBytes]
    have hsign := h.ends.sign hexp
    rw [h.extra_eq_nil (.inl (by simp [hexp])), hend] at hsign
    exact hsign
  | cons d ds =>
    have hat := h.parts.exp
    rw [NumText.expBytes, hexp] at hat
    exact ne_sign_of_isDigit (TextAt.isDigit_of_ne_nil (TextAt.cons_iff.1 hat).2 (List.cons_ne_nil d ds))

end ReadsText
end Sys2Proof.Machine
end

section
/-! Runs of digits: a scan of PARSE feeds each digit of a run to one primitive (R89), and what the run leaves in the registers
(R81, R83, R85). -/

namespace Sys2Proof.Machine

/-! ### Scanning a run -/

/-- One primitive for each digit of a run. -/
def feed (f : Nat → State → State) (ds : List (Fin 10)) (s : State) : State := ds.foldl (fun t d => f d.val t) s

@[simp] theorem feed_nil (f : Nat → State → State) (s : State) : feed f [] s = s := rfl

@[simp] theorem feed_cons (f : Nat → State → State) (d : Fin 10) (ds : List (Fin 10)) (s : State) :
    feed f (d :: ds) s = feed f ds (f d.val s) := rfl

/-- `scan` is the loop `while IsDigit(T(p)) and go: f (T(p) - 0x30) ; p <- p + 1`, and `f` leaves the text as it is. -/
structure DigitScan (scan : Nat → Nat → State → Nat × State) (go : State → Bool) (f : Nat → State → State) : Prop where
  zero : ∀ p s, scan 0 p s = (p, s)
  succ : ∀ n p s, scan (n + 1) p s =
    if isDigit (s.textAt p) && go s then scan n (p + 1) (f (digitValue (s.textAt p)) s) else (p, s)
  keeps : ∀ d s p, (f d s).textAt p = s.textAt p

theorem digitScan_integer : DigitScan scanInteger (fun _ => true) doPidig :=
  ⟨fun _ _ => rfl, fun _ _ _ => by simp [scanInteger], textAt_doPidig⟩

theorem digitScan_fraction : DigitScan scanFraction (fun s => decide (s.fscl.toNat < scaleCap)) doPfdig :=
  ⟨fun _ _ => rfl, fun _ _ _ => rfl, textAt_doPfdig⟩

theorem digitScan_exponent : DigitScan scanExponent (fun _ => true) doPedig :=
  ⟨fun _ _ => rfl, fun _ _ _ => by simp [scanExponent], textAt_doPedig⟩

theorem digitValue_digitByte : ∀ d : Fin 10, digitValue (digitByte d.val) = d.val := by decide

/-- A scan goes over a run of digits, and stops after it where no digit follows or it may not go on. -/
theorem DigitScan.run {scan : Nat → Nat → State → Nat × State} {go : State → Bool} {f : Nat → State → State}
    (h : DigitScan scan go f) {ds : List (Fin 10)} {n p : Nat} {s : State} (hn : ds.length ≤ n)
    (hrun : TextAt s p (digitBytes ds)) (hgo : ∀ k < ds.length, go (feed f (ds.take k) s) = true)
    (hstop : isDigit (s.textAt (p + ds.length)) = false ∨ go (feed f ds s) = false) :
    scan n p s = (p + ds.length, feed f ds s) := by
  induction ds generalizing n p s with
  | nil =>
    cases n with
    | zero => exact h.zero p s
    | succ n =>
      have hcond : (isDigit (s.textAt p) && go s) = false := Bool.and_eq_false_iff.2 hstop
      rw [h.succ, hcond]
      rfl
  | cons d ds ih =>
    obtain ⟨n, rfl⟩ := Nat.exists_eq_add_one.2 (Nat.zero_lt_of_lt hn)
    obtain ⟨hd, hds⟩ := TextAt.cons_iff.1 hrun
    have hgo0 : go s = true := hgo 0 (Nat.succ_pos _)
    have hcond : (isDigit (s.textAt p) && go s) = true := by rw [hd, isDigit_digitByte d.isLt, hgo0]; rfl
    have hpos : p + (d :: ds).length = p + 1 + ds.length := by rw [List.length_cons, Nat.add_assoc, Nat.add_comm 1]
    rw [h.succ, hcond, if_pos rfl, hd, digitValue_digitByte, hpos]
    refine ih (Nat.le_of_succ_le_succ hn) ?_ (fun k hk => hgo (k + 1) (Nat.succ_lt_succ hk)) ?_
    · exact fun j c hc => (h.keeps ..).trans (hds j c hc)
    · rw [h.keeps, ← hpos]
      exact hstop

/-- `skipWhile` goes over a run of bytes in its class, and stops after it where the next byte is in no such class. -/
theorem skipWhile_run {test : Byte → Bool} {bs : List Byte} {n p : Nat} {s : State} (hn : bs.length ≤ n)
    (hrun : TextAt s p bs) (hbs : ∀ b ∈ bs, test b = true) (hstop : test (s.textAt (p + bs.length)) = false) :
    skipWhile test s n p = p + bs.length := by
  induction bs generalizing n p with
  | nil =>
    cases n with
    | zero => rfl
    | succ n =>
      have hcond : test (s.textAt p) = false := hstop
      rw [skipWhile, hcond]
      rfl
  | cons b bs ih =>
    obtain ⟨n, rfl⟩ := Nat.exists_eq_add_one.2 (Nat.zero_lt_of_lt hn)
    obtain ⟨hb, hrest⟩ := TextAt.cons_iff.1 hrun
    have hpos : p + (b :: bs).length = p + 1 + bs.length := by rw [List.length_cons, Nat.add_assoc, Nat.add_comm 1]
    rw [hpos] at hstop ⊢
    rw [skipWhile, hb, hbs b List.mem_cons_self, if_pos rfl]
    exact ih (Nat.le_of_succ_le_succ hn) hrest (fun c hc => hbs c (List.mem_cons_of_mem b hc)) hstop

/-- An optional sign that is there is taken, and `onMinus` applied for a '-'. -/
theorem takeSign_signBytes (onMinus : State → State) {p : Nat} {s : State} {sg : Option Bool}
    (hsign : TextAt s p (signBytes sg)) (hnone : sg = none → s.textAt p ≠ chPlus ∧ s.textAt p ≠ chMinus) :
    takeSign onMinus p s = (p + (signBytes sg).length, if sg = some true then onMinus s else s) := by
  unfold takeSign
  rcases sg with _ | _ | _
  · obtain ⟨hplus, hminus⟩ := hnone rfl
    rw [if_neg hplus, if_neg hminus]
    rfl
  · rw [if_pos (TextAt.cons_iff.1 hsign).1]
    rfl
  · rw [(TextAt.cons_iff.1 hsign).1, if_neg (by decide), if_pos rfl]
    rfl

/-! ### What a run of digits leaves -/

/-- A register that takes a run of digits. -/
def feedWord (w : Word) (ds : List (Fin 10)) : Word := ds.foldl (fun v d => timesTenPlus v d.val) w

/-- A register takes a run of digits modulo 2^32, whatever number it stood for. -/
theorem toNat_feedWord_of_mod {w : Word} {a : Nat} (h : w.toNat = a % 2 ^ 32) (ds : List (Fin 10)) :
    (feedWord w ds).toNat = ds.foldl (fun a d => 10 * a + d.val) a % 2 ^ 32 := by
  induction ds generalizing w a with
  | nil => exact h
  | cons d ds ih =>
    refine ih ?_
    rw [toNat_timesTenPlus, h]
    dsimp only
    omega

/-- From 0 on the register holds the number the digits write (R81, R83, R85). -/
theorem toNat_feedWord (ds : List (Fin 10)) : (feedWord 0 ds).toNat = decimalValue ds % 2 ^ 32 :=
  toNat_feedWord_of_mod rfl ds

theorem foldl_decimal_lt (ds : List (Fin 10)) (a : Nat) :
    ds.foldl (fun a d => 10 * a + d.val) a < (a + 1) * 10 ^ ds.length := by
  induction ds generalizing a with
  | nil => exact Nat.lt_succ_self a |>.trans_eq (Nat.mul_one _).symm
  | cons d ds ih =>
    calc ds.foldl (fun a d => 10 * a + d.val) (10 * a + d.val)
      _ < (10 * a + d.val + 1) * 10 ^ ds.length := ih _
      _ ≤ ((a + 1) * 10) * 10 ^ ds.length := Nat.mul_le_mul_right _ (by omega)
      _ = (a + 1) * 10 ^ (ds.length + 1) := by rw [Nat.pow_succ', Nat.mul_assoc]

/-- The number that `k` digits write is below 10^k. -/
theorem decimalValue_lt (ds : List (Fin 10)) : decimalValue ds < 10 ^ ds.length :=
  (foldl_decimal_lt ds 0).trans_eq (by rw [Nat.zero_add, Nat.one_mul])

/-- PIDIG for each digit: IACC takes the run, and ICNT counts it (R81). -/
theorem feed_doPidig (ds : List (Fin 10)) (s : State) :
    feed doPidig ds s = { s with iacc := feedWord s.iacc ds, icnt := s.icnt + BitVec.ofNat 32 ds.length } := by
  induction ds generalizing s with
  | nil => simp [feedWord]
  | cons d ds ih =>
    have hcount : BitVec.ofNat 32 (s.icnt.toNat + 1) + BitVec.ofNat 32 ds.length =
        s.icnt + BitVec.ofNat 32 (ds.length + 1) := BitVec.eq_of_toNat_eq (by simp; omega)
    rw [feed_cons, ih, List.length_cons, ← hcount]
    rfl

/-- PEDIG for each digit: EXPM takes the run (R85). -/
theorem feed_doPedig (ds : List (Fin 10)) (s : State) :
    feed doPedig ds s = { s with expm := feedWord s.expm ds } := by
  induction ds generalizing s with
  | nil => rfl
  | cons d ds ih => rw [feed_cons, ih]; rfl

/-- Under the cap FSCL counts the digits as powers of ten, without a wrap (R83). -/
theorem feed_doPfdig (ds : List (Fin 10)) {s : State} (hcap : s.fscl.toNat * 10 ^ ds.length ≤ scaleCap) :
    feed doPfdig ds s =
      { s with fscl := BitVec.ofNat 32 (s.fscl.toNat * 10 ^ ds.length), fval := feedWord s.fval ds } := by
  induction ds generalizing s with
  | nil => simp [feedWord]
  | cons d ds ih =>
    have hsplit : s.fscl.toNat * 10 ^ (d :: ds).length = s.fscl.toNat * 10 * 10 ^ ds.length := by
      rw [List.length_cons, Nat.pow_succ', Nat.mul_assoc]
    have hten : s.fscl.toNat * 10 ≤ scaleCap :=
      (Nat.le_mul_of_pos_right _ (Nat.pow_pos (by decide))).trans (hsplit ▸ hcap)
    have hlt : s.fscl.toNat < 100000000 := by
      rw [scaleCap] at hten
      omega
    have hstep : (BitVec.ofNat 32 (s.fscl.toNat * 10)).toNat = s.fscl.toNat * 10 := by
      rw [scaleCap] at hten
      exact (BitVec.toNat_ofNat ..).trans (Nat.mod_eq_of_lt (by omega))
    rw [feed_cons, doPfdig_of_lt _ hlt, ih (by rw [hstep, ← hsplit]; exact hcap), hstep, ← hsplit]
    rfl

/-- Up to 8 digits stay within the cap. -/
theorem pow_digits_le {k : Nat} (h : k ≤ 8) : 10 ^ k ≤ scaleCap := Nat.pow_le_pow_right (by decide) h

/-- Up to 8 digits do not wrap. -/
theorem toNat_feedWord_of_le {ds : List (Fin 10)} (hlen : ds.length ≤ 8) : (feedWord 0 ds).toNat = decimalValue ds :=
  (toNat_feedWord ds).trans (Nat.mod_eq_of_lt (((decimalValue_lt ds).trans_le (pow_digits_le hlen)).trans (by decide)))

/-- From 1 on FSCL is the power of ten, for up to 8 digits (R83). -/
theorem feed_doPfdig_of_one {ds : List (Fin 10)} {s : State} (hfscl : s.fscl = 1) (hlen : ds.length ≤ 8) :
    feed doPfdig ds s = { s with fscl := BitVec.ofNat 32 (10 ^ ds.length), fval := feedWord s.fval ds } := by
  have hpow : s.fscl.toNat * 10 ^ ds.length = 10 ^ ds.length := by rw [hfscl]; exact Nat.one_mul _
  rw [feed_doPfdig ds (hpow.trans_le (pow_digits_le hlen)), hpow]

theorem toNat_pow_digits {k : Nat} (h : k ≤ 8) : (BitVec.ofNat 32 (10 ^ k) : Word).toNat = 10 ^ k :=
  (BitVec.toNat_ofNat ..).trans (Nat.mod_eq_of_lt ((pow_digits_le h).trans_lt (by decide)))

/-- The scale after up to 8 digits, as a number. -/
theorem toNat_fscl_feed {ds : List (Fin 10)} {s : State} (hfscl : s.fscl = 1) (hlen : ds.length ≤ 8) :
    (feed doPfdig ds s).fscl.toNat = 10 ^ ds.length := by
  rw [feed_doPfdig_of_one hfscl hlen]
  exact toNat_pow_digits hlen

end Sys2Proof.Machine
end

section
/-! PARSE over a number text (R89): each step consumes one part of the text, so PARSE is the primitive sequence of R118; and the
registers that this sequence leaves (R92). -/

namespace Sys2Proof.Machine

/-- ACC written back as it is. -/
theorem setAcc_acc (s : State) : s.setAcc s.acc = s := by
  have hlo : s.acc.extractLsb' 0 32 = s.accLo := BitVec.extractLsb'_append_eq_right
  have hhi : s.acc.extractLsb' 32 32 = s.accHi := BitVec.extractLsb'_append_eq_left
  rw [State.setAcc, hlo, hhi]

/-- The last value written to ACC stays. -/
theorem setAcc_overwrite (s : State) (v w : Wide) (pf e : Word) :
    ({ s.setAcc v with pflags := pf, expm := e } : State).setAcc w =
      ({ s with pflags := pf, expm := e } : State).setAcc w :=
  rfl

theorem clearExpNeg_setExpNeg (pf : Word) : clearExpNeg (setExpNeg pf) = clearExpNeg pf := by
  ext k hk
  simp only [clearExpNeg, setExpNeg, BitVec.getElem_and, BitVec.getElem_or, BitVec.getElem_not]
  cases pf[k] <;> cases (0x00000002#32)[k] <;> rfl

/-- PFLAGS with NEG and EXPNEG as given (R30). -/
def signFlags (neg expNeg : Bool) : Word :=
  let pf : Word := if neg then setNeg 0 else 0
  if expNeg then setExpNeg pf else pf

theorem signFlags_true (neg : Bool) : signFlags neg true = setExpNeg (signFlags neg false) := rfl

theorem clearExpNeg_signFlags : ∀ neg, clearExpNeg (signFlags neg false) = signFlags neg false := by decide

theorem negFlag_signFlags : ∀ neg expNeg, negFlag (signFlags neg expNeg) = neg := by decide

theorem expNegFlag_signFlags : ∀ neg expNeg, expNegFlag (signFlags neg expNeg) = expNeg := by decide

theorem toNat_signFlags : ∀ neg expNeg : Bool,
    (signFlags neg expNeg).toNat = (if neg then 1 else 0) + (if expNeg then 2 else 0) := by decide

/-! ### The primitive sequence of a text (R118) -/

/-- NEG set by hand. -/
def State.markNeg (s : State) : State := { s with pflags := setNeg s.pflags }

/-- EXPNEG set by hand. -/
def State.markExpNeg (s : State) : State := { s with pflags := setExpNeg s.pflags }

namespace NumText

/-- PCLR, and NEG for a '-'. -/
def signed (x : NumText) (s : State) : State := if x.sign = some true then (doPclr s).markNeg else doPclr s

/-- The integer digits, and PSEED. -/
def seeded (x : NumText) (s : State) : State := doPseed (feed doPidig x.ints (x.signed s))

/-- The fraction digits, and PFCOMB, which adds nothing where there is no fraction. -/
def readFraction (x : NumText) (s : State) : State := doPfcomb (feed doPfdig x.fracDigits s)

/-- EXPNEG for a '-' in the exponent, the exponent digits, and PEXP, which changes nothing where there is no exponent. -/
def readExponent (x : NumText) (s : State) : State :=
  doPexp (feed doPedig x.expDigits (if x.expNeg then s.markExpNeg else s))

/-- The sequence of R118 for the text, up to the down-conversion. -/
def worked (x : NumText) (s : State) : State := x.readExponent (x.readFraction (x.seeded s))

/-! ### What the sequence leaves (R92) -/

/-- The text has a '-' before its digits. -/
def neg (x : NumText) : Bool := decide (x.sign = some true)

/-- `A0` of R92: the integer part and the exact ratio. -/
def ratio (x : NumText) : Nat :=
  decimalValue x.ints % 2 ^ 32 * 2 ^ 32 + decimalValue x.fracDigits * 2 ^ 32 / 10 ^ x.fracDigits.length

variable (x : NumText) {s : State}

theorem signed_eq (s : State) : x.signed s = { doPclr s with pflags := signFlags x.neg false } := by
  unfold signed neg
  by_cases h : x.sign = some true
  · rw [if_pos h, decide_eq_true h]
    rfl
  · rw [if_neg h, decide_eq_false h]
    rfl

/-- The registers once ACC is seeded (R80 to R82). -/
theorem seeded_eq (s : State) :
    x.seeded s = { doPclr s with
      iacc := feedWord 0 x.ints, icnt := BitVec.ofNat 32 x.ints.length, accHi := feedWord 0 x.ints,
      pflags := signFlags x.neg false } := by
  have hcount : (doPclr s).icnt + BitVec.ofNat 32 x.ints.length = BitVec.ofNat 32 x.ints.length := BitVec.zero_add _
  rw [seeded, feed_doPidig, signed_eq]
  simp only [hcount]
  rfl

theorem toNat_acc_seeded (s : State) : (x.seeded s).acc.toNat = decimalValue x.ints % 2 ^ 32 * 2 ^ 32 := by
  rw [State.toNat_acc, seeded_eq, ← toNat_feedWord]
  exact Nat.add_zero _

theorem fscl_seeded (s : State) : (x.seeded s).fscl = 1 := by rw [seeded_eq]; rfl

theorem fval_seeded (s : State) : (x.seeded s).fval = 0 := by rw [seeded_eq]; rfl

theorem expm_seeded (s : State) : (x.seeded s).expm = 0 := by rw [seeded_eq]; rfl

theorem pflags_seeded (s : State) : (x.seeded s).pflags = signFlags x.neg false := by rw [seeded_eq]

/-- ACC does not wrap before the exponent. -/
theorem ratio_lt : x.ratio < 2 ^ 64 := by
  have hfrac : decimalValue x.fracDigits * 2 ^ 32 / 10 ^ x.fracDigits.length < 2 ^ 32 :=
    Nat.div_lt_of_lt_mul (Nat.mul_lt_mul_of_pos_right (decimalValue_lt _) (by decide))
  have hint : decimalValue x.ints % 2 ^ 32 < 2 ^ 32 := Nat.mod_lt _ (by decide)
  rw [ratio]
  omega

/-- Up to 8 fraction digits do not wrap FVAL, and PFCOMB divides by their power of ten (R83, R84). -/
theorem readFraction_seeded (hlen : x.fracDigits.length ≤ 8) :
    x.readFraction (x.seeded s) =
      ({ x.seeded s with
          fscl := BitVec.ofNat 32 (10 ^ x.fracDigits.length), fval := feedWord 0 x.fracDigits } : State).setAcc
        (BitVec.ofNat 64 x.ratio) := by
  have hscale := toNat_fscl_feed (x.fscl_seeded s) hlen
  have hfed := feed_doPfdig_of_one (x.fscl_seeded s) hlen
  obtain ⟨h0, -⟩ | ⟨-, hcomb⟩ := doPfcomb_cases (feed doPfdig x.fracDigits (x.seeded s))
  · rw [hscale] at h0
    exact absurd h0 (Nat.pow_pos (by decide)).ne'
  · rw [readFraction, hcomb, hscale, hfed, x.fval_seeded, toNat_feedWord_of_le hlen, ratio, ← x.toNat_acc_seeded s]
    rfl

theorem expm_readFraction (hlen : x.fracDigits.length ≤ 8) : (x.readFraction (x.seeded s)).expm = 0 := by
  rw [readFraction_seeded x hlen]
  exact x.expm_seeded s

theorem pflags_readFraction (hlen : x.fracDigits.length ≤ 8) :
    (x.readFraction (x.seeded s)).pflags = signFlags x.neg false := by
  rw [readFraction_seeded x hlen]
  exact x.pflags_seeded s

/-- EXPM, PFLAGS and ACC after the exponent (R85, R87). -/
theorem readExponent_eq {t : State} (hexpm : t.expm = 0) (hpflags : t.pflags = signFlags x.neg false) :
    x.readExponent t =
      ({ t with pflags := signFlags x.neg x.expNeg, expm := feedWord 0 x.expDigits } : State).setAcc
        (tenSteps x.expNeg (feedWord 0 x.expDigits).toNat t.acc) := by
  have hmark : (if x.expNeg then t.markExpNeg else t) = { t with pflags := signFlags x.neg x.expNeg } := by
    cases x.expNeg with
    | false => rw [← hpflags]; rfl
    | true => rw [signFlags_true, ← hpflags]; rfl
  rw [readExponent, hmark, feed_doPedig, doPexp, ← tenSteps_min, hexpm, expNegFlag_signFlags]
  rfl

/-- PEXP leaves the value of R92. -/
theorem toNat_tenSteps_ratio :
    (tenSteps x.expNeg (feedWord 0 x.expDigits).toNat (BitVec.ofNat 64 x.ratio)).toNat = x.accValue := by
  have hratio : (BitVec.ofNat 64 x.ratio).toNat = x.ratio := (BitVec.toNat_ofNat ..).trans (Nat.mod_eq_of_lt x.ratio_lt)
  unfold accValue
  cases x.expNeg with
  | false => rw [toNat_tenSteps_false, hratio, toNat_feedWord, ratio]; simp only [Bool.false_eq_true, if_false]
  | true => rw [toNat_tenSteps_true, hratio, toNat_feedWord, ratio]; simp only [if_true]

/-- The value fits ACC. -/
theorem toNat_ofNat_accValue : (BitVec.ofNat 64 x.accValue).toNat = x.accValue := by
  rw [← toNat_tenSteps_ratio, BitVec.ofNat_toNat, BitVec.setWidth_eq]

/-- The registers after the sequence. -/
theorem worked_eq (hlen : x.fracDigits.length ≤ 8) :
    x.worked s = ({ x.seeded s with
      fscl := BitVec.ofNat 32 (10 ^ x.fracDigits.length), fval := feedWord 0 x.fracDigits,
      pflags := signFlags x.neg x.expNeg, expm := feedWord 0 x.expDigits } : State).setAcc (BitVec.ofNat 64 x.accValue) := by
  have hread := x.readFraction_seeded (s := s) hlen
  rw [worked, readExponent_eq x (x.expm_readFraction hlen) (x.pflags_readFraction hlen), hread, State.acc_setAcc,
    ← toNat_tenSteps_ratio, BitVec.ofNat_toNat, BitVec.setWidth_eq]
  exact setAcc_overwrite ..

/-! ### The sequence leaves the text as it is -/

theorem sameText_signed (s : State) : SameText (x.signed s) s := by rw [signed_eq]; exact ⟨rfl, rfl, rfl⟩

theorem sameText_seeded (s : State) : SameText (x.seeded s) s := by rw [seeded_eq]; exact ⟨rfl, rfl, rfl⟩

theorem sameText_readFraction (hlen : x.fracDigits.length ≤ 8) : SameText (x.readFraction (x.seeded s)) s := by
  obtain ⟨hmem, hparams, hresets⟩ := x.sameText_seeded s
  rw [readFraction_seeded x hlen]
  exact ⟨hmem, hparams, hresets⟩

theorem sameText_worked (hlen : x.fracDigits.length ≤ 8) : SameText (x.worked s) s := by
  obtain ⟨hmem, hparams, hresets⟩ := x.sameText_seeded s
  rw [worked_eq x hlen]
  exact ⟨hmem, hparams, hresets⟩

end NumText

/-! ### The parts of PARSE -/

/-- Before a marker that no exponent digit follows, the exponent scan stands on no digit, and has changed at most EXPNEG. -/
theorem takeSign_of_noExponentDigit {s : State} {m : Nat} (hnone : NumText.noExponentDigit (s.textFrom m) = true)
    (hpflags : clearExpNeg s.pflags = s.pflags) :
    ∃ q t, takeSign State.markExpNeg (m + 1) s = (q, t) ∧ isDigit (t.textAt q) = false ∧ t.params = s.params ∧
      { t with pflags := clearExpNeg t.pflags } = s := by
  simp only [NumText.noExponentDigit, State.textFrom, Bool.and_eq_true, Bool.not_eq_true', Bool.and_eq_false_iff,
    Bool.or_eq_false_iff, beq_eq_false_iff_ne] at hnone
  obtain ⟨hfirst, hsecond⟩ := hnone
  have hclear : { s with pflags := clearExpNeg s.pflags } = s := by rw [hpflags]
  obtain ⟨hplus, htake⟩ | ⟨hminus, htake⟩ | ⟨-, -, htake⟩ := takeSign_cases State.markExpNeg (m + 1) s
  · exact ⟨_, _, htake, hsecond.resolve_left fun hne => hne.1 hplus, rfl, hclear⟩
  · refine ⟨_, _, htake, hsecond.resolve_left fun hne => hne.2 hminus, rfl, ?_⟩
    rw [State.markExpNeg, clearExpNeg_setExpNeg, hpflags]
  · exact ⟨_, _, htake, hfirst, rfl, hclear⟩

/-- Step 7 from a marker on, by its sign and its digits. -/
theorem parseExponent_of_mark {ae : Bool} {m q r : Nat} {s t u : State}
    (hmark : (ae && isExpMark (s.textAt m)) = true) (htake : takeSign State.markExpNeg (m + 1) s = (q, t))
    (hscan : scanExponent t.params.txtLen q t = (r, u)) :
    parseExponent ae m s =
      if r = q ∧ u.params.expBacktrack = true then (m, { u with pflags := clearExpNeg u.pflags }) else (r, doPexp u) := by
  have htake' : takeSign (fun s => { s with pflags := setExpNeg s.pflags }) (m + 1) s = (q, t) := htake
  rw [parseExponent, hmark, if_pos rfl, htake']
  dsimp only
  rw [hscan]

namespace ReadsText

variable {ae : Bool} {s : State} {p : Nat} {x : NumText}

/-- Step 1 skips the whitespace. -/
theorem skipWhile_isSpace (h : ReadsText ae s p x) :
    skipWhile (isSpace s.params) s s.params.txtLen p = x.signStart p := by
  have hat := h.parts.ws
  have hnul : chNul ∉ x.ws := fun hmem => h.nul_notMem (by simp [NumText.bytes, hmem])
  exact skipWhile_run (hat.length_le hnul) hat h.legal.ws h.isSpace_signStart

/-- Step 2 takes the sign. -/
theorem takeSign_sign (h : ReadsText ae s p x) :
    takeSign State.markNeg (x.signStart p) s = (x.intStart p, if x.sign = some true then s.markNeg else s) := by
  refine takeSign_signBytes _ h.parts.sign fun hnone => ?_
  have hint := h.isDigit_intStart
  rw [NumText.intStart, hnone] at hint
  exact ne_sign_of_isDigit hint

/-- Step 3 takes the integer digits. -/
theorem scanInteger_ints (h : ReadsText ae s p x) :
    scanInteger s.params.txtLen (x.intStart p) s = (x.fracStart p, feed doPidig x.ints s) := by
  have hat := h.parts.ints
  exact digitScan_integer.run hat.length_digits_le hat (fun _ _ => rfl) (.inl h.isDigit_fracStart)

/-- The fraction scan takes the fraction digits: the cap is not reached before the 8th (R83). -/
theorem scanFraction_fracDigits (h : ReadsText ae s p x) {sep : Byte} {ds : List (Fin 10)}
    (hfrac : x.frac = some (sep, ds)) (hfscl : s.fscl = 1) :
    scanFraction s.params.txtLen (x.fracStart p + 1) s = (x.expStart p, feed doPfdig ds s) := by
  obtain ⟨-, hlen⟩ := h.legal.frac hfrac
  have hat := h.parts.frac
  rw [NumText.fracBytes, hfrac] at hat
  obtain ⟨-, hds⟩ := TextAt.cons_iff.1 hat
  have hend : x.expStart p = x.fracStart p + 1 + ds.length := by
    simp [NumText.expStart, NumText.fracBytes, hfrac, Nat.add_assoc, Nat.add_comm 1]
  rw [hend]
  refine digitScan_fraction.run hds.length_digits_le hds (fun k hk => ?_) ?_
  · have htake : (ds.take k).length = k := List.length_take_of_le hk.le
    have hlt : 10 ^ k < 10 ^ 8 := Nat.pow_lt_pow_right (by decide) (hk.trans_le hlen)
    rw [toNat_fscl_feed hfscl (by omega), htake]
    exact decide_eq_true hlt
  · rw [← hend]
    refine h.isDigit_expStart.symm.imp_right fun h8 => ?_
    have hds8 : ds.length = 8 := by simpa [NumText.fracDigits, hfrac] using h8
    rw [toNat_fscl_feed hfscl hlen, hds8]
    rfl

/-- Step 6 reads the fraction; without one the ratio it would add is 0. -/
theorem parseFraction_frac (h : ReadsText ae s p x) (hfscl : s.fscl = 1) (hfval : s.fval = 0) :
    parseFraction (x.fracStart p) s = (x.expStart p, x.readFraction s) := by
  unfold parseFraction
  cases hx : x.frac with
  | none =>
    have hread : x.readFraction s = s := by
      have hsum : BitVec.ofNat 64 (s.acc.toNat + s.fval.toNat * 2 ^ 32 / s.fscl.toNat) = s.acc := by
        simp [hfval]
      simp only [NumText.readFraction, NumText.fracDigits, hx, Option.map_none, Option.getD_none, feed_nil, doPfcomb,
        hsum, setAcc_acc]
      rw [hfscl]
      rfl
    rw [h.isSep_fracStart hx, hread]
    simp [NumText.expStart, NumText.fracBytes, hx]
  | some f =>
    obtain ⟨sep, ds⟩ := f
    have hat := h.parts.frac
    rw [NumText.fracBytes, hx] at hat
    rw [(TextAt.cons_iff.1 hat).1, (h.legal.frac hx).1, if_pos rfl, h.scanFraction_fracDigits hx hfscl]
    simp [NumText.readFraction, NumText.fracDigits, hx]

/-- Without an exponent nothing is read: no marker is recognised, or the one that is is given back (R89 step 7). -/
theorem parseExponent_of_exp_none (h : ReadsText ae s p x) (hexp : x.exp = none)
    (hpflags : clearExpNeg s.pflags = s.pflags) : parseExponent ae (x.expStart p) s = (x.expStart p, s) := by
  cases hmark : ae && isExpMark (s.textAt (x.expStart p)) with
  | false => rw [parseExponent, hmark]; rfl
  | true =>
    obtain ⟨hae, hchar⟩ := Bool.and_eq_true_iff.1 hmark
    obtain ⟨hback, hnone⟩ := h.givenBack hexp hae hchar
    obtain ⟨q, t, htake, hq, hparams, hclear⟩ := takeSign_of_noExponentDigit hnone hpflags
    have hscan : scanExponent t.params.txtLen q t = (q, t) :=
      digitScan_exponent.run (ds := []) (Nat.zero_le _) nofun nofun (.inl hq)
    rw [parseExponent_of_mark hmark htake hscan, if_pos ⟨rfl, hparams ▸ hback⟩, hclear]

/-- With an exponent the sign and the digits after the marker are read, and the marker is kept. -/
theorem parseExponent_of_exp_some (h : ReadsText ae s p x) {mark : Byte} {sg : Option Bool} {ds : List (Fin 10)}
    (hx : x.exp = some (mark, sg, ds)) : parseExponent ae (x.expStart p) s = (x.extraStart p, x.readExponent s) := by
  obtain ⟨hae, hmark, hback⟩ := h.legal.exp hx
  have hat := h.parts.exp
  rw [NumText.expBytes, hx, TextAt.cons_iff, TextAt.append_iff] at hat
  obtain ⟨hm, hsign, hds⟩ := hat
  have hpos : x.extraStart p = x.expStart p + 1 + (signBytes sg).length + ds.length := by
    simp [NumText.extraStart, NumText.expBytes, hx, Nat.add_assoc, Nat.add_comm 1]
  have htake := takeSign_signBytes State.markExpNeg hsign fun hnone => h.ne_sign_after_mark (hnone ▸ hx)
  generalize ht : (if sg = some true then State.markExpNeg s else s) = t at htake
  have htext : t.textAt = s.textAt := by rw [← ht]; split <;> rfl
  have hparams : t.params = s.params := by rw [← ht]; split <;> rfl
  have hn := hparams ▸ hds.length_digits_le
  have hend := h.isDigit_end
  rw [h.extra_eq_nil (.inl (by simp [hx])), hpos, ← htext] at hend
  rw [TextAt, ← htext] at hds
  have hscan := digitScan_exponent.run hn hds (fun _ _ => rfl) (.inl hend)
  have hkept : ¬ (x.expStart p + 1 + (signBytes sg).length + ds.length = x.expStart p + 1 + (signBytes sg).length ∧
      (feed doPedig ds t).params.expBacktrack = true) := by
    rw [feed_doPedig, hparams]
    rintro ⟨hnil, hset⟩
    rcases hback with hne | hclear
    · exact hne (List.eq_nil_of_length_eq_zero (by omega))
    · exact absurd (hset.symm.trans hclear) (by decide)
  rw [parseExponent_of_mark (by rw [hm, hae, hmark]; rfl) htake hscan, if_neg hkept, hpos, ← ht]
  simp [NumText.readExponent, NumText.expDigits, NumText.expNeg, hx]

/-- Step 7 reads the exponent (R89). -/
theorem parseExponent_exp (h : ReadsText ae s p x) (hpflags : clearExpNeg s.pflags = s.pflags) (hexpm : s.expm = 0) :
    parseExponent ae (x.expStart p) s = (x.extraStart p, x.readExponent s) := by
  cases hx : x.exp with
  | none =>
    have hread : x.readExponent s = s := by
      simp [NumText.readExponent, NumText.expNeg, NumText.expDigits, hx, doPexp, hexpm, tenSteps, setAcc_acc]
    rw [h.parseExponent_of_exp_none hx hpflags, NumText.extraStart_of_exp_none hx, hread]
  | some e => exact h.parseExponent_of_exp_some hx

/-- Step 8 skips the ignored digits. -/
theorem skipWhile_extra (h : ReadsText ae s p x) :
    skipWhile isDigit s s.params.txtLen (x.extraStart p) = p + x.bytes.length := by
  have hat := h.parts.extra
  rw [NumText.add_length_bytes, ← length_digitBytes]
  exact skipWhile_run (hat.length_le (nul_notMem_digitBytes _)) hat (fun _ => isDigit_of_mem_digitBytes)
    (by rw [length_digitBytes]; exact h.isDigit_end)

/-- A legal TXT_LEN is at most 2048 (R8). -/
theorem txtLen_le (h : ReadsText ae s p x) : s.params.txtLen ≤ 2048 := by
  have hwf := h.wf
  simp only [Params.wf, Bool.and_eq_true, decide_eq_true_eq] at hwf
  omega

/-- The integer digits are counted without a wrap (R81). -/
theorem toNat_icnt_seeded (h : ReadsText ae s p x) : (x.seeded s).icnt.toNat = x.ints.length := by
  have hn := h.parts.ints.length_digits_le
  have htxt := h.txtLen_le
  rw [NumText.seeded_eq]
  exact (BitVec.toNat_ofNat ..).trans (Nat.mod_eq_of_lt (by omega))

/-- At most 8 digits are read as a fraction (R91). -/
theorem fracDigits_length_le (h : ReadsText ae s p x) : x.fracDigits.length ≤ 8 := by
  cases hx : x.frac with
  | none => simp [NumText.fracDigits, hx]
  | some f => simpa [NumText.fracDigits, hx] using (h.legal.frac hx).2

/-- PARSE of a text is the primitive sequence of R118, with PEND after the text. -/
theorem doParse_eq (h : ReadsText ae s s.pstart.toNat x) (sh : Bool) :
    doParse ae sh s =
      doPdown sh { x.worked s with pend := BitVec.ofNat 32 (s.pstart.toNat + x.bytes.length) } := by
  have hlen := h.fracDigits_length_le
  have hcleared := h.congr (t := doPclr s) ⟨rfl, rfl, rfl⟩
  have hsigned := h.congr (x.sameText_signed s)
  have hseeded := h.congr (x.sameText_seeded s)
  have hread := h.congr (x.sameText_readFraction hlen)
  have hworked := h.congr (x.sameText_worked hlen)
  have hwhite : skipWhile (isSpace (doPclr s).params) (doPclr s) (doPclr s).params.txtLen (doPclr s).pstart.toNat =
      x.signStart s.pstart.toNat := hcleared.skipWhile_isSpace
  have hsign : takeSign (fun s => { s with pflags := setNeg s.pflags }) (x.signStart s.pstart.toNat) (doPclr s) =
      (x.intStart s.pstart.toNat, x.signed s) := hcleared.takeSign_sign
  have hints : scanInteger (doPclr s).params.txtLen (x.intStart s.pstart.toNat) (x.signed s) =
      (x.fracStart s.pstart.toNat, feed doPidig x.ints (x.signed s)) :=
    (x.sameText_signed s).params ▸ hsigned.scanInteger_ints
  have hicnt : (feed doPidig x.ints (x.signed s)).icnt ≠ 0x00000000#32 := by
    have hcount : (feed doPidig x.ints (x.signed s)).icnt.toNat = x.ints.length := h.toNat_icnt_seeded
    exact fun h0 => h.legal.ints (List.eq_nil_of_length_eq_zero (hcount.symm.trans (congrArg BitVec.toNat h0)))
  have hfrac : parseFraction (x.fracStart s.pstart.toNat) (doPseed (feed doPidig x.ints (x.signed s))) =
      (x.expStart s.pstart.toNat, x.readFraction (x.seeded s)) :=
    hseeded.parseFraction_frac (x.fscl_seeded s) (x.fval_seeded s)
  have hexp : parseExponent ae (x.expStart s.pstart.toNat) (x.readFraction (x.seeded s)) =
      (x.extraStart s.pstart.toNat, x.worked s) :=
    hread.parseExponent_exp (by rw [x.pflags_readFraction hlen, clearExpNeg_signFlags]) (x.expm_readFraction hlen)
  have hextra : skipWhile isDigit (x.worked s) (doPclr s).params.txtLen (x.extraStart s.pstart.toNat) =
      s.pstart.toNat + x.bytes.length :=
    (x.sameText_worked hlen).params ▸ hworked.skipWhile_extra
  unfold doParse
  dsimp only
  rw [hwhite, hsign]
  dsimp only
  rw [hints]
  dsimp only
  rw [if_neg hicnt, hfrac]
  dsimp only
  rw [hexp]
  dsimp only
  rw [hextra]

end ReadsText

/-! ### The value (R92) -/

theorem negate32_eq_neg (r : Word) : negate32 r = -r := BitVec.eq_of_toNat_eq (by simp [negate32])

/-- RESULT after PDOWN, from the sign and the value of the text (R88). -/
theorem result_doPdown {x : NumText} {s : State} (sh : Bool) (hneg : negFlag s.pflags = x.neg)
    (hacc : s.acc.toNat = x.accValue) : (doPdown sh s).result = x.resultValue s.params.downcvtRound sh := by
  cases hround : s.params.downcvtRound <;>
    simp only [doPdown, hround, hneg, hacc, negate32_eq_neg, NumText.neg, decide_eq_true_eq, NumText.resultValue, downShift]

/-- Settles O51: PARSE is the primitive sequence of R118, whose registers are known. -/
theorem parseComputesValue : Obligations.ParseComputesValue := by
  unfold Obligations.ParseComputesValue
  intro ae sh s x hwf hok htext hstop
  have h : ReadsText ae s s.pstart.toNat x := ⟨hwf, hok, htext, hstop⟩
  have hlen := h.fracDigits_length_le
  have hworked := x.worked_eq (s := s) hlen
  have hpend : (BitVec.ofNat 32 (s.pstart.toNat + x.bytes.length) : Word).toNat = s.pstart.toNat + x.bytes.length := by
    have hend := h.end_le
    have htxt := h.txtLen_le
    exact (BitVec.toNat_ofNat ..).trans (Nat.mod_eq_of_lt (by omega))
  have hacc : (x.worked s).acc.toNat = x.accValue := by
    rw [hworked, State.acc_setAcc, x.toNat_ofNat_accValue]
  have hresult : (doPdown sh (x.worked s)).result = x.resultValue s.params.downcvtRound sh := by
    rw [← (x.sameText_worked (s := s) hlen).params]
    exact result_doPdown sh (by rw [hworked, State.setAcc_pflags, negFlag_signFlags]) hacc
  have hiacc : (x.worked s).iacc.toNat = decimalValue x.ints % 2 ^ 32 := by
    rw [hworked, State.setAcc_iacc, x.seeded_eq, toNat_feedWord]
  have hicnt : (x.worked s).icnt.toNat = x.ints.length := by
    rw [hworked, State.setAcc_icnt, h.toNat_icnt_seeded]
  have hfval : (x.worked s).fval.toNat = decimalValue x.fracDigits := by
    rw [hworked, State.setAcc_fval, toNat_feedWord_of_le hlen]
  have hfscl : (x.worked s).fscl.toNat = 10 ^ x.fracDigits.length := by
    rw [hworked, State.setAcc_fscl, toNat_pow_digits hlen]
  have hexpm : (x.worked s).expm.toNat = decimalValue x.expDigits % 2 ^ 32 := by
    rw [hworked, State.setAcc_expm, toNat_feedWord]
  have hpflags : (x.worked s).pflags.toNat = (if x.sign = some true then 1 else 0) + (if x.expNeg then 2 else 0) := by
    rw [hworked, State.setAcc_pflags, toNat_signFlags]
    simp only [NumText.neg, decide_eq_true_eq]
  exact ⟨_, congrArg Host.Outcome.next (h.doParse_eq sh),
    hpend, hacc, hresult, hiacc, hicnt, hfval, hfscl, hexpm, hpflags⟩

end Sys2Proof.Machine
end

section
/-! NOP (R94): the word 0 is the one legal word with OP = 0, and its Exec leaves the state as it is, so that the step in which
it is due is the completion alone (R66 item 4). -/

namespace Sys2Proof.Machine

/-- NOP's Exec is the identity (R94). -/
@[simp] theorem exec_nop (s : State) : exec .nop s = .next s := rfl

/-- A due NOP only completes. -/
theorem step_of_due_nop {s : State} {w : Word} (hflight : s.inFlight = some ⟨w, 0⟩) (hdecode : decode w = .ok .nop) :
    step s = .next s.complete := by
  rw [step_of_due hflight hdecode, exec_nop, completing]

/-- Settles O31: OP = 0 uses no field, so that its only legal word is 0, and a due NOP only completes. -/
theorem nopDoesNothing : Obligations.NopDoesNothing := by
  unfold Obligations.NopDoesNothing
  have hdecode : decode 0x00000000#32 = .ok .nop := by decide
  exact ⟨hdecode, fun w i hop hne => decode_ne_ok_of_not_bare (op := 0#4) hop rfl hne i, exec_nop,
    fun _ hflight => step_of_due_nop hflight hdecode⟩

end Sys2Proof.Machine
end

section
/-! The STATUS flags that each command can raise (R95, R98 to R100): Exec clears no flag, and raises only those of its
own rule. -/

namespace Sys2Proof.Machine

/-- From `s` to `t` every flag keeps its value, but that a flag of `fs` may be raised. -/
def RaisesOnly (fs : List Flag) (s t : State) : Prop := ∀ f, t.flag f = s.flag f ∨ (f ∈ fs ∧ t.flag f = true)

namespace RaisesOnly

variable {fs : List Flag} {s t u : State}

theorem of_status_eq (h : t.status = s.status) : RaisesOnly fs s t := fun f => .inl (congrArg (·.getLsbD f.bit) h)

theorem trans (hst : RaisesOnly fs s t) (htu : RaisesOnly fs t u) : RaisesOnly fs s u := by
  intro f
  obtain hkept | hraised := htu f
  · rw [hkept]
    exact hst f
  · exact .inr hraised

/-- A flag that is set stays set. -/
theorem flag_of_flag (h : RaisesOnly fs s t) {f : Flag} (hf : s.flag f = true) : t.flag f = true :=
  (h f).elim (·.trans hf) And.right

/-- A flag outside the list keeps its value. -/
theorem flag_eq (h : RaisesOnly fs s t) {f : Flag} (hf : f ∉ fs) : t.flag f = s.flag f :=
  (h f).resolve_right fun hraised => hf hraised.1

end RaisesOnly

/-! ### Output bytes, EMIT and FMT (R65, R72, R76) -/

section
variable {fs : List Flag}

theorem raisesOnly_raise {g : Flag} (hg : g ∈ fs) (s : State) : RaisesOnly fs s (s.raise g) := by
  intro f
  rw [flag_raise]
  by_cases hf : f = g
  · exact .inr ⟨hf ▸ hg, by simp [hf]⟩
  · exact .inl (by simp [hf])

theorem raisesOnly_outByte (hoovf : .oovf ∈ fs) (s : State) (i : Nat) (b : Byte) : RaisesOnly fs s (s.outByte i b) := by
  obtain ⟨-, heq⟩ | ⟨-, heq⟩ := s.outByte_cases i b
  · exact .of_status_eq (by rw [heq, State.writeByte_status])
  · exact heq ▸ raisesOnly_raise hoovf s

theorem raisesOnly_outBytes (hoovf : .oovf ∈ fs) (s : State) (i : Nat) (bs : List Byte) :
    RaisesOnly fs s (s.outBytes i bs) := by
  induction bs generalizing s i with
  | nil => exact .of_status_eq rfl
  | cons b bs ih => exact (raisesOnly_outByte hoovf s _ b).trans (ih _ _)

theorem raisesOnly_stripZeros (hoovf : .oovf ∈ fs) (n : Nat) (s : State) : RaisesOnly fs s (stripZeros n s).2 := by
  induction n generalizing s with
  | zero => exact .of_status_eq rfl
  | succ n ih =>
    unfold stripZeros
    split
    · exact (raisesOnly_outByte hoovf s n chNul).trans (ih _)
    · exact .of_status_eq rfl

theorem raisesOnly_canon (hoovf : .oovf ∈ fs) (n : Nat) (dot : Bool) (s : State) :
    RaisesOnly fs s (canon n dot s).2 := by
  unfold canon
  split
  · dsimp only
    split
    · exact (raisesOnly_stripZeros hoovf n s).trans (raisesOnly_outByte hoovf _ _ chNul)
    · exact raisesOnly_stripZeros hoovf n s
  · exact .of_status_eq rfl

end

theorem raisesOnly_doEmit (e : Nat) (skip : Bool) (s : State) : RaisesOnly [.dovf, .oovf] s (doEmit e skip s) := by
  have hrun : RaisesOnly [.dovf, .oovf] s (s.outBytes s.outptr.toNat (emitDigits s.evalReg.toNat e skip).1) :=
    raisesOnly_outBytes (by decide) s _ _
  dsimp only [doEmit]
  split
  · exact hrun.trans (raisesOnly_raise (by decide) _)
  · exact hrun

theorem raisesOnly_doFmt (s : State) : RaisesOnly [.oovf] s (doFmt s) := by
  have hoovf : Flag.oovf ∈ [Flag.oovf] := List.mem_singleton.2 rfl
  have hprojection : RaisesOnly [.oovf] s (writeProjection s s.projection) := .of_status_eq rfl
  have hraw := hprojection.trans (raisesOnly_outBytes hoovf _ 0 (rawText s.projection))
  exact (hraw.trans (raisesOnly_outByte hoovf _ _ chNul)).trans (raisesOnly_canon hoovf _ _ _)

/-! ### PFCOMB and PARSE (R84, R89) -/

theorem status_takeSign {onMinus : State → State} (hminus : ∀ s, (onMinus s).status = s.status) (p : Nat) (s : State) :
    (takeSign onMinus p s).2.status = s.status := by
  obtain ⟨-, heq⟩ | ⟨-, heq⟩ | ⟨-, -, heq⟩ := takeSign_cases onMinus p s <;> rw [heq]
  exact hminus s

theorem status_scanInteger (n p : Nat) (s : State) : (scanInteger n p s).2.status = s.status := by
  rw [(scanInteger_eq n p s).2]

theorem status_scanFraction (n p : Nat) (s : State) : (scanFraction n p s).2.status = s.status := by
  rw [(scanFraction_eq n p s).2]

theorem status_scanExponent (n p : Nat) (s : State) : (scanExponent n p s).2.status = s.status := by
  rw [(scanExponent_eq n p s).2]

theorem State.status_markNeg (s : State) : s.markNeg.status = s.status := rfl

theorem State.status_markExpNeg (s : State) : s.markExpNeg.status = s.status := rfl

theorem status_doPseed (s : State) : (doPseed s).status = s.status := rfl

theorem status_doPexp (s : State) : (doPexp s).status = s.status := rfl

theorem status_doPdown_withPend (sh : Bool) (s : State) (pend : Word) :
    (doPdown sh { s with pend := pend }).status = s.status := rfl

/-- Steps 2 and 3 of PARSE raise no flag. -/
theorem status_signedInteger (n p : Nat) (s : State) :
    (scanInteger n (takeSign State.markNeg p s).1 (takeSign State.markNeg p s).2).2.status = s.status :=
  (status_scanInteger _ _ _).trans (status_takeSign State.status_markNeg _ _)

/-- Step 7 of PARSE raises no flag, whether the exponent is read, given back or absent. -/
theorem status_parseExponent (ae : Bool) (m : Nat) (s : State) : (parseExponent ae m s).2.status = s.status := by
  unfold parseExponent
  split
  · have hdigits (n : Nat) : (scanExponent n (takeSign State.markExpNeg (m + 1) s).1
        (takeSign State.markExpNeg (m + 1) s).2).2.status = s.status :=
      (status_scanExponent _ _ _).trans (status_takeSign State.status_markExpNeg _ _)
    dsimp only
    split
    · exact hdigits _
    · exact (status_doPexp _).trans (hdigits _)
  · rfl

theorem raisesOnly_doPfcomb (s : State) : RaisesOnly [.dz] s (doPfcomb s) := by
  obtain ⟨-, heq⟩ | ⟨-, heq⟩ := doPfcomb_cases s
  · exact heq ▸ raisesOnly_raise (by decide) s
  · exact .of_status_eq (by rw [heq, State.setAcc_status])

theorem raisesOnly_parseFraction (p : Nat) (s : State) : RaisesOnly [.dz] s (parseFraction p s).2 := by
  unfold parseFraction
  split
  · exact (RaisesOnly.of_status_eq (status_scanFraction _ _ s)).trans (raisesOnly_doPfcomb _)
  · exact .of_status_eq rfl

theorem raisesOnly_doParse (ae sh : Bool) (s : State) : RaisesOnly [.dz] s (doParse ae sh s) := by
  dsimp only [doParse]
  split
  · exact .of_status_eq (status_signedInteger _ _ (doPclr s))
  · exact RaisesOnly.trans (.of_status_eq ((status_doPseed _).trans (status_signedInteger _ _ (doPclr s))))
      ((raisesOnly_parseFraction _ _).trans
        (.of_status_eq ((status_doPdown_withPend _ _ _).trans (status_parseExponent _ _ _))))

/-! ### Exec (R66, R98) -/

/-- The flags that a command can raise (R98 to R100). -/
def raisable : Instr → List Flag
  | .emit _ _ => [.dovf, .oovf]
  | .fmt => [.oovf]
  | .pfcomb | .parse _ _ => [.dz]
  | _ => []

/-- Exec answers a state in which no flag is cleared, and only the command's own flags are raised. -/
theorem exec_raisesOnly (i : Instr) (s : State) : ∃ t, exec i s = .next t ∧ RaisesOnly (raisable i) s t := by
  cases i with
  | emit e skip => exact ⟨_, rfl, raisesOnly_doEmit e.toNat skip s⟩
  | fmt => exact ⟨_, rfl, raisesOnly_doFmt s⟩
  | pfcomb => exact ⟨_, rfl, raisesOnly_doPfcomb s⟩
  | parse ae sh => exact ⟨_, rfl, raisesOnly_doParse ae sh s⟩
  | pfdig d => exact ⟨_, rfl, .of_status_eq (by rw [doPfdig_eq])⟩
  | _ => exact ⟨_, rfl, .of_status_eq rfl⟩

theorem raisesOnly_of_exec {i : Instr} {s t : State} (h : exec i s = .next t) : RaisesOnly (raisable i) s t := by
  obtain ⟨u, hu, hraises⟩ := exec_raisesOnly i s
  obtain rfl : u = t := Host.Outcome.next.inj (hu.symm.trans h)
  exact hraises

theorem dovf_notMem_raisable {i : Instr} (h : ∀ e k, i ≠ .emit e k) : .dovf ∉ raisable i := by
  cases i with
  | emit e skip => exact absurd rfl (h e skip)
  | _ => simp [raisable]

/-- EMIT raises DOVF exactly when EVAL has no room in `e + 1` digits (R71, R98). -/
theorem dovf_doEmit (e : Nat) (skip : Bool) (s : State) :
    (doEmit e skip s).flag .dovf = true ↔ s.flag .dovf = true ∨ 10 ^ (e + 1) ≤ s.evalReg.toNat := by
  have hbit := getLsbD_status_doEmit e skip s Flag.dovf.bit
  rw [emitDigits_overflow_iff] at hbit
  simpa [State.flag, Flag.bit] using hbit

/-- Settles O34: EMIT's DOVF is the overflow of `EmitDigits`, and DOVF is not among the flags that another command can
raise. -/
theorem dovfOnlyFromEmit : Obligations.DovfOnlyFromEmit := by
  unfold Obligations.DovfOnlyFromEmit
  have hother (i : Instr) (s t : State) (hi : ∀ e k, i ≠ .emit e k) (hexec : exec i s = .next t) :
      t.flag .dovf = s.flag .dovf := (raisesOnly_of_exec hexec).flag_eq (dovf_notMem_raisable hi)
  exact ⟨fun e skip s => ⟨_, rfl, dovf_doEmit e.toNat skip s⟩, fun s => ⟨_, rfl, hother .fmt s _ nofun rfl⟩, hother⟩

end Sys2Proof.Machine
end

section
/-! The exceptional host writes: an illegal command word (R96), and a write while BUSY (R97). -/

namespace Sys2Proof

/-! ### Illegal words (R57) -/

/-- OP is the low hexadecimal digit of the word. -/
theorem toNat_opField (w : Word) : (opField w).toNat = w.toNat % 16 := by simp [opField]

/-- ARG is the third hexadecimal digit of the word. -/
theorem toNat_argField (w : Word) : (argField w).toNat = w.toNat / 256 % 16 := by
  simp [argField, Nat.shiftRight_eq_div_pow]

/-- A word is illegal by the rows exactly when its fields are not legal. -/
theorem legalByRows_eq_false_iff (w : Word) : legalByRows w = false ↔ ¬ LegalFields w := by
  rw [← legalByRows_iff, Bool.not_eq_true]

/-- The decoder rejects every illegal word. -/
theorem decode_ne_ok_of_illegal {w : Word} (h : legalByRows w = false) (i : Instr) : decode w ≠ .ok i := fun hdecode =>
  (legalByRows_eq_false_iff w).1 h ((exists_decode_eq_ok_iff w).1 ⟨i, hdecode⟩)

/-- An opcode from 0xD on is reserved. -/
theorem illegal_of_reserved_opcode {w : Word} (hop : 0xD ≤ w.toNat % 16) : legalByRows w = false := by
  rw [legalByRows_eq_false_iff]
  rintro ⟨hlt, -, -⟩
  rw [toNat_opField] at hlt
  exact absurd hlt (Nat.not_lt.2 hop)

/-- A command that uses ARG is illegal with an ARG above 9. -/
theorem illegal_of_large_arg {w : Word} (hop : w.toNat % 16 ∈ [0x1, 0x5, 0x7, 0x9]) (harg : 9 < w.toNat / 256 % 16) :
    legalByRows w = false := by
  have huses : ∀ k ∈ [0x1, 0x5, 0x7, 0x9], (usedFields k).arg = true := by decide
  rw [legalByRows_eq_false_iff]
  rintro ⟨-, -, hok⟩
  rw [toNat_opField, huses _ hop, Bool.not_true, Bool.false_or, argOk, decide_eq_true_eq, toNat_argField] at hok
  exact absurd hok (Nat.not_le.2 harg)

/-- A word with the opcode of a row it does not select is illegal, since the row of its opcode is the only one it could
select. -/
theorem illegal_of_not_selected {w : Word} {r : OpcodeRow} (hr : r ∈ opcodeRows)
    (hop : w.toNat % 16 = r.matchBits.toNat % 16) (hne : w &&& r.mask ≠ r.matchBits) : legalByRows w = false := by
  obtain ⟨k, hk, rfl⟩ := List.mem_iff_getElem.1 hr
  have hrow : ∀ (k : Nat) (hk : k < opcodeRows.length), opcodeRows[k].matchBits.toNat % 16 = k := by decide
  have hopField : (opField w).toNat = k := by rw [toNat_opField, hop, hrow k hk]
  rw [legalByRows_eq_false_iff]
  rintro ⟨-, hzero, -⟩
  have hselects : opcodeRows[k].selects w = true := (selects_opcodeRows_iff hk w).2 ⟨hopField, hopField ▸ hzero⟩
  exact hne (beq_iff_eq.1 hselects)

end Sys2Proof

namespace Sys2Proof.Machine

/-- Delivery of an illegal word: CTRL takes it, DONE falls and ILL rises (R66 item 2, R96). -/
theorem State.deliver_of_illegal (s : State) {w : Word} (hill : ∀ i, decode w ≠ .ok i) (left : Nat) :
    s.deliver w left = { s with ctrl := w, status := setFlag (clearFlag s.status .done) .ill } := by
  obtain ⟨i, hi, -⟩ | ⟨-, -, heq⟩ := s.deliver_cases w left
  · exact absurd hi (hill i)
  · exact heq

/-- STATUS after a rejected command word: DONE 0, ILL 1, and every other bit as it was (R96). -/
theorem getLsbD_rejectedStatus (st : Word) (k : Nat) :
    (setFlag (clearFlag st .done) .ill).getLsbD k = ((st.getLsbD k && !decide (k = 1)) || decide (k = 2)) := by
  rw [getLsbD_setFlag, getLsbD_clearFlag]
  rfl

/-- Settles O8: a rejected word only reaches CTRL, DONE and ILL, and a word is rejected for its opcode, its ARG or a bit
that must be 0. -/
theorem ctrlWriteRejectsIllegalWord : Obligations.CtrlWriteRejectsIllegalWord := by
  unfold Obligations.CtrlWriteRejectsIllegalWord
  refine ⟨fun s w rest hnone hidle hill hin => ?write, fun w => illegal_of_reserved_opcode,
    fun w => illegal_of_large_arg, fun w r => illegal_of_not_selected⟩
  have hwrite := step_write_reg_of_idle (g := .ctrl) hnone hidle hin
  rw [State.writeReg, State.deliver_of_illegal _ (decode_ne_ok_of_illegal hill)] at hwrite
  refine ⟨_, hwrite, ?done, ?ill, fun k _ hk => ?others⟩
  case done => simp [getLsbD_rejectedStatus, -BitVec.getLsbD_eq_getElem]
  case ill => simp [getLsbD_rejectedStatus, -BitVec.getLsbD_eq_getElem]
  case others =>
    simp only [List.mem_cons, List.not_mem_nil, or_false, not_or] at hk
    simp [getLsbD_rejectedStatus, hk, -BitVec.getLsbD_eq_getElem]

/-! ### Writes while BUSY (R97) -/

/-- A full write at a legal offset while BUSY is dropped and raises WBUSY (R42 item 2, R97). -/
theorem State.hostWrite_of_busy {s : State} {off : Offset} (hbusy : s.flag .busy = true)
    (hlegal : LegalOffset s.params off.toNat) (v : Word) :
    s.hostWrite off 0xF#4 v = (s.raise .wbusy).respond .writeOk := by
  obtain ⟨hnone | hstrb, -⟩ | ⟨-, -, -, -, heq⟩ | ⟨-, -, -, hidle, -⟩ := s.hostWrite_cases off 0xF#4 v
  · exact absurd hlegal ((targetOf_eq_none_iff s.params off).1 hnone)
  · exact absurd rfl hstrb
  · exact heq
  · exact absurd (hbusy.symm.trans hidle) (by decide)

/-- Settles O17: the dropped write leaves only WBUSY and its response. -/
theorem busyWriteIsDropped : Obligations.BusyWriteIsDropped := by
  unfold Obligations.BusyWriteIsDropped
  intro s off v rest hdue hbusy hlegal hin
  have hwrite := State.hostWrite_of_busy (s := { s with inbox := rest, inFlight := passes s.inFlight }) hbusy hlegal v
  refine ⟨setFlag s.status .wbusy, (step_hostOp hdue hin).trans (congrArg _ hwrite), ?wbusy, fun k _ hk => ?others⟩
  case wbusy => simp [getLsbD_setFlag, Flag.bit, -BitVec.getLsbD_eq_getElem]
  case others => simp [getLsbD_setFlag, Flag.bit, List.mem_singleton.not.1 hk, -BitVec.getLsbD_eq_getElem]

end Sys2Proof.Machine
end

section
/-! Sticky flags (R104): a completion clears none of the condition flags, and of the host operations only a reset, or an
idle write of STATUS with a 1 in the flag's bit, does. -/

namespace Sys2Proof.Machine

/-- The flags that the conditions of R95 raise. -/
def conditionFlags : List Flag := [.ill, .wbusy, .dovf, .oovf, .dz]

/-- The bits of the condition flags are W1C bits, and neither BUSY nor DONE. -/
theorem bit_of_mem_conditionFlags {f : Flag} (hf : f ∈ conditionFlags) : 2 ≤ f.bit ∧ f.bit ≤ 6 :=
  (by decide : ∀ g ∈ conditionFlags, 2 ≤ g.bit ∧ g.bit ≤ 6) f hf

/-- What names a register is that register's offset (R16). -/
theorem eq_offset_of_targetOf {p : Params} {off : Offset} {g : Reg} (h : targetOf p off = some (.reg g)) :
    off = BitVec.ofNat 12 g.offset := by
  have halign : off.toNat % 4 = 0 := (legalOffset_of_targetOf h).1
  obtain hlt | hge := Nat.lt_or_ge off.toNat 0x100
  · rw [targetOf_of_lt p halign hlt, Option.map_eq_some_iff] at h
    obtain ⟨g', hfind, hg⟩ := h
    obtain rfl : g' = g := Target.reg.inj hg
    have hoffset : g'.offset = off.toNat := by simpa using List.find?_some hfind
    rw [hoffset, BitVec.ofNat_toNat, BitVec.setWidth_eq]
  · rw [targetOf_of_legal_ge (legalOffset_of_targetOf h) hge] at h
    cases h

/-! ### What an operation does to a condition flag -/

namespace State

variable {s : State} {f : Flag}

/-- Completion touches BUSY and DONE only (R66 item 4). -/
theorem flag_complete (hf : f ∈ conditionFlags) (s : State) : s.complete.flag f = s.flag f := by
  obtain ⟨hlow, -⟩ := bit_of_mem_conditionFlags hf
  have hbusy : f.bit ≠ 0 := by omega
  have hdone : f.bit ≠ 1 := by omega
  rw [flag, flag, complete_status, getLsbD_completedStatus]
  simp [hbusy, hdone, -BitVec.getLsbD_eq_getElem]

/-- Delivery of a command word clears DONE, whether the word is legal or not (R66 item 1). -/
theorem done_deliver (s : State) (w : Word) (left : Nat) : (s.deliver w left).flag .done = false := by
  obtain ⟨-, -, heq⟩ | ⟨-, -, heq⟩ := s.deliver_cases w left <;>
    simp [heq, flag, getLsbD_setFlag, getLsbD_clearFlag, Flag.bit, -BitVec.getLsbD_eq_getElem]

/-- Delivery of a command word clears DONE alone. -/
theorem flag_deliver_of_flag (hf : f ∈ conditionFlags) (hset : s.flag f = true) (w : Word) (left : Nat) :
    (s.deliver w left).flag f = true := by
  obtain ⟨hlow, -⟩ := bit_of_mem_conditionFlags hf
  have hdone : f.bit ≠ Flag.done.bit := fun h => absurd (h ▸ hlow) (by decide)
  have hkept : (clearFlag s.status .done).getLsbD f.bit = true := by
    rw [getLsbD_clearFlag, decide_eq_false hdone, Bool.not_false, Bool.and_true]
    exact hset
  obtain ⟨-, -, heq⟩ | ⟨-, -, heq⟩ := s.deliver_cases w left <;> rw [heq, flag, getLsbD_setFlag, hkept, Bool.true_or]

/-- A write of a register clears a condition flag only where it is STATUS and the bit written is 1 (R19). -/
theorem cleared_of_writeReg (hf : f ∈ conditionFlags) (hset : s.flag f = true) {v : Word} {g : Reg}
    (hclear : (s.writeReg v g).flag f = false) : g = .status ∧ v.getLsbD f.bit = true := by
  cases g with
  | ctrl => exact absurd ((flag_deliver_of_flag hf hset v _).symm.trans hclear) (by decide)
  | status =>
    obtain ⟨hlow, hhigh⟩ := bit_of_mem_conditionFlags hf
    have hw1c : 1 ≤ f.bit ∧ f.bit ≤ 6 := ⟨by omega, hhigh⟩
    have hbit := (getLsbD_w1cWrite s.status v f.bit).symm.trans hclear
    rw [show s.status.getLsbD f.bit = true from hset, decide_eq_true hw1c, Bool.true_and, Bool.true_and,
      Bool.not_eq_false'] at hbit
    exact ⟨rfl, hbit⟩
  | _ => exact absurd (hset.symm.trans hclear) (by decide)

/-- A write of a buffer word changes no flag. -/
theorem flag_storeWord (s : State) (a : Nat) (v : Word) (f : Flag) : (s.storeWord a v).flag f = s.flag f := by
  rw [storeWord_eq]
  rfl

/-- A host write clears a condition flag only where it is an idle write of STATUS with a 1 in the flag's bit. -/
theorem cleared_of_hostWrite (hf : f ∈ conditionFlags) (hset : s.flag f = true) {off : Offset} {strb : Strobes}
    {v : Word} (hclear : (s.hostWrite off strb v).flag f = false) :
    s.flag .busy = false ∧ off = 0x004#12 ∧ strb = 0xF#4 ∧ v.getLsbD f.bit = true := by
  obtain ⟨-, heq⟩ | ⟨-, -, -, -, heq⟩ | ⟨t, ht, hstrb, hidle, heq⟩ := s.hostWrite_cases off strb v <;> rw [heq] at hclear
  · exact absurd (hset.symm.trans hclear) (by decide)
  · have hraise : (s.raise .wbusy).flag f = false := hclear
    rw [flag_raise, hset, Bool.true_or] at hraise
    cases hraise
  · cases t with
    | reg g =>
      obtain ⟨rfl, hbit⟩ := cleared_of_writeReg (g := g) hf hset hclear
      exact ⟨hidle, eq_offset_of_targetOf ht, hstrb, hbit⟩
    | buf a =>
      have hstore : (s.storeWord a v).flag f = false := hclear
      rw [flag_storeWord, hset] at hstore
      cases hstore

/-- A host read changes no flag. -/
theorem status_hostRead (s : State) (off : Offset) : (s.hostRead off).status = s.status := by
  obtain ⟨-, heq⟩ | ⟨_, -, -, -, heq⟩ | ⟨_, -, -, heq⟩ := s.hostRead_cases off <;> rw [heq] <;> rfl

/-- A poll of WAIT is a read of STATUS. -/
theorem status_pollStatus (s : State) : s.pollStatus.status = s.status := by
  unfold pollStatus
  dsimp only
  split <;> exact status_hostRead s _

/-- The host operations that clear a condition flag. -/
theorem cleared_of_hostOp (hf : f ∈ conditionFlags) (hset : s.flag f = true) {op : HostOp}
    (hclear : (s.hostOp op).flag f = false) :
    op = .reset ∨ (s.flag .busy = false ∧ ∃ v, op = .wr 0x004#12 0xF#4 v ∧ v.getLsbD f.bit = true) := by
  have hchanged : (s.hostOp op).status ≠ s.status := fun h =>
    absurd (hset.symm.trans ((congrArg (·.getLsbD f.bit) h).symm.trans hclear)) (by decide)
  cases op with
  | rd off => exact absurd (status_hostRead s off) hchanged
  | wait => exact absurd (status_pollStatus s) hchanged
  | idle => exact absurd rfl hchanged
  | reset => exact .inl rfl
  | wr off strb v =>
    obtain ⟨hidle, rfl, rfl, hbit⟩ := cleared_of_hostWrite hf hset hclear
    exact .inr ⟨hidle, v, rfl, hbit⟩

/-- The host steps that clear a condition flag. -/
theorem cleared_of_hostStep (hf : f ∈ conditionFlags) (hset : s.flag f = true) (hclear : s.hostStep.flag f = false) :
    (∃ rest, s.inbox = .reset :: rest) ∨
      (s.flag .busy = false ∧ ∃ v rest, s.inbox = .wr 0x004#12 0xF#4 v :: rest ∧ v.getLsbD f.bit = true) := by
  cases hin : s.inbox with
  | nil =>
    rw [hostStep_nil hin] at hclear
    exact absurd (hset.symm.trans hclear) (by decide)
  | cons op rest =>
    rw [hostStep_cons hin] at hclear
    obtain rfl | ⟨hidle, v, rfl, hbit⟩ := cleared_of_hostOp (s := ({ s with inbox := rest } : State).tick) hf hset hclear
    · exact .inl ⟨rest, rfl⟩
    · exact .inr ⟨hidle, v, rest, rfl, hbit⟩

end State

/-- The completion of a command clears no condition flag. -/
theorem flag_complete_of_exec {f : Flag} (hf : f ∈ conditionFlags) {i : Instr} {s u : State}
    (hexec : exec i s = .next u) (hset : s.flag f = true) : u.complete.flag f = true := by
  rw [State.flag_complete hf]
  exact (raisesOnly_of_exec hexec).flag_of_flag hset

/-- A step in which the host writes CTRL of an idle FXDP clears DONE, whatever the latch holds. -/
theorem done_of_step_write_ctrl {s t : State} {w : Word} {rest : List HostOp} (hdue : s.due = false)
    (hidle : s.flag .busy = false) (hin : s.inbox = .wr 0x000#12 0xF#4 w :: rest) (hstep : step s = .next t) :
    t.flag .done = false := by
  have hwrite := State.hostWrite_reg_of_idle (s := { s with inbox := rest, inFlight := passes s.inFlight }) hidle .ctrl w
  have hnext := (step_hostOp hdue hin).trans (congrArg _ hwrite)
  obtain rfl := Host.Outcome.next.inj (hnext.symm.trans hstep)
  exact State.done_deliver _ w _

/-- Settles O28: a step is a completion, which raises flags but clears no condition flag, or a host step. -/
theorem flagsAreSticky : Obligations.FlagsAreSticky := by
  unfold Obligations.FlagsAreSticky
  refine ⟨fun s t f hf hstep hset hclear => ?condition, fun s t w rest => done_of_step_write_ctrl,
    fun s t rest hdue hin hstep => ?reset⟩
  case condition =>
    obtain ⟨w, i, u, -, -, hexec, rfl⟩ | ⟨hdue, rfl⟩ := step_cases hstep
    · exact absurd ((flag_complete_of_exec hf hexec hset).symm.trans hclear) (by decide)
    · exact ⟨hdue, State.cleared_of_hostStep hf hset hclear⟩
  case reset =>
    obtain rfl := Host.Outcome.next.inj ((step_hostOp hdue hin).symm.trans hstep)
    rfl

end Sys2Proof.Machine
end

section
/-! Reset and the primitive sequence (R114, R118): the state after reset, and the commands of R118 run one after another, which
compute what PARSE computes. -/

namespace Sys2Proof.Machine

/-! ### The state after reset (R114) -/

/-- No byte of the buffers is written after reset: each reads as its free value. -/
theorem State.byteAt_reset (a : Nat) : State.reset.byteAt a = Config.resetByte State.reset.resets a := rfl

/-- PCLR finds nothing to clear after reset. -/
theorem doPclr_reset : doPclr State.reset = State.reset := rfl

/-- Settles O22: each register's reset value is read off, no byte is written, and PCLR changes nothing. -/
theorem stateAfterReset : Obligations.StateAfterReset := by
  unfold Obligations.StateAfterReset
  refine ⟨?zeros, rfl, rfl, ?scales, rfl, State.byteAt_reset, congrArg Host.Outcome.next doPclr_reset⟩
  case zeros => decide
  case scales => decide

/-! ### Running a list of commands -/

theorem runAll_cons {i : Instr} {s t : State} (h : exec i s = .next t) (is : List Instr) :
    runAll (i :: is) s = runAll is t := by
  rw [runAll, h]

/-- One command for each digit feeds the digits to the command's Exec. -/
theorem runAll_perDigit_append {c : BitVec 4 → Instr} {f : Nat → State → State}
    (hexec : ∀ d s, exec (c d) s = .next (f d.toNat s)) (ds : List (Fin 10)) (is : List Instr) (s : State) :
    runAll (perDigit c ds ++ is) s = runAll is (feed f ds s) := by
  induction ds generalizing s with
  | nil => rfl
  | cons d ds ih =>
    have harg : (BitVec.ofNat 4 d.val).toNat = d.val := (BitVec.toNat_ofNat ..).trans (Nat.mod_eq_of_lt (by omega))
    have hfirst : exec (c (BitVec.ofNat 4 d.val)) s = .next (f d.val s) := by rw [hexec, harg]
    exact (runAll_cons hfirst (perDigit c ds ++ is)).trans (ih (f d.val s))

namespace NumText

variable (x : NumText)

/-- The commands from PIDIG to PFCOMB seed ACC and read the fraction. -/
theorem runAll_mantissa (s : State) :
    runAll (perDigit .pidig x.ints ++ [.pseed] ++ perDigit .pfdig x.fracDigits ++ [.pfcomb]) s =
      some (x.readFraction (doPseed (feed doPidig x.ints s))) := by
  rw [List.append_assoc, List.append_assoc, runAll_perDigit_append (f := doPidig) fun _ _ => rfl, List.singleton_append,
    runAll_cons (t := doPseed (feed doPidig x.ints s)) rfl, runAll_perDigit_append (f := doPfdig) fun _ _ => rfl]
  rfl

/-- The commands from PEDIG to PDOWN, with EXPNEG set by hand before them, read the exponent and convert ACC. -/
theorem runAll_exponent (sh : Bool) (s : State) :
    runAll (perDigit .pedig x.expDigits ++ [.pexp, .pdown sh]) (if x.expNeg then s.markExpNeg else s) =
      some (doPdown sh (x.readExponent s)) := by
  rw [runAll_perDigit_append (f := doPedig) fun _ _ => rfl]
  rfl

/-- ACC after the sequence is the value of R92. -/
theorem toNat_acc_worked (hlen : x.fracDigits.length ≤ 8) (s : State) : (x.worked s).acc.toNat = x.accValue := by
  rw [x.worked_eq hlen, State.acc_setAcc, x.toNat_ofNat_accValue]

/-- PDOWN after the sequence leaves the down-converted value of R92. -/
theorem result_doPdown_worked (hlen : x.fracDigits.length ≤ 8) (sh : Bool) (s : State) :
    (doPdown sh (x.worked s)).result = x.resultValue s.params.downcvtRound sh := by
  have hneg : negFlag (x.worked s).pflags = x.neg := by rw [x.worked_eq hlen, State.setAcc_pflags, negFlag_signFlags]
  rw [← (x.sameText_worked (s := s) hlen).params]
  exact result_doPdown sh hneg (x.toNat_acc_worked hlen s)

end NumText

/-- Settles O53: the sequence runs to the registers `NumText.worked` names, from whatever state, and PARSE to the same value
(R92). -/
theorem primitiveSequenceEqualsParse : Obligations.PrimitiveSequenceEqualsParse := by
  unfold Obligations.PrimitiveSequenceEqualsParse
  intro ae sh s p x hparams hwf hok htext hstop
  have hlen : x.fracDigits.length ≤ 8 := ReadsText.fracDigits_length_le ⟨hwf, hok, htext, hstop⟩
  obtain ⟨u, hparse, -, hacc, hresult, -⟩ := parseComputesValue ae sh p x hwf hok htext hstop
  refine ⟨doPclr s, x.readFraction (x.seeded s), doPdown sh (x.worked s), u, rfl, x.runAll_mantissa (x.signed s),
    x.runAll_exponent sh _, hparse, ?result, ?acc⟩
  case result => rw [x.result_doPdown_worked hlen, hparams, hresult]
  case acc => exact BitVec.eq_of_toNat_eq ((x.toNat_acc_worked hlen s).trans hacc.symm)

end Sys2Proof.Machine
end

section
/-! The decoder and the encoder against the fields of a command (R54 to R58): a word decodes to a command exactly when its
fields are the command's, which those of the encoded word are. -/

namespace Sys2Proof

/-! ### The fields of a command (R54, R56) -/

namespace Instr

/-- OP. -/
def op : Instr → BitVec 4
  | .nop => 0x0
  | .emit _ _ => 0x1
  | .fproj => 0x2
  | .fmt => 0x3
  | .pclr => 0x4
  | .pidig _ => 0x5
  | .pseed => 0x6
  | .pfdig _ => 0x7
  | .pfcomb => 0x8
  | .pedig _ => 0x9
  | .pexp => 0xA
  | .pdown _ => 0xB
  | .parse _ _ => 0xC

/-- ARG, 0 where the command does not use it. -/
def arg : Instr → BitVec 4
  | .emit e _ => e
  | .pidig d | .pfdig d | .pedig d => d
  | _ => 0

/-- SKIP, 0 where the command does not use it. -/
def skip : Instr → Bool
  | .emit _ s => s
  | _ => false

/-- AEXP, 0 where the command does not use it. -/
def aexp : Instr → Bool
  | .parse ae _ => ae
  | _ => false

/-- SHIFT, 0 where the command does not use it. -/
def shift : Instr → Bool
  | .pdown sh | .parse _ sh => sh
  | _ => false

/-- The fields of `w` are those of the command, with all other bits 0. -/
structure HasFields (i : Instr) (w : Word) : Prop where
  op : opField w = i.op
  rsv0 : rsv0Field w = 0
  arg : argField w = i.arg
  skip : skipField w = i.skip
  aexp : aexpField w = i.aexp
  shift : shiftField w = i.shift
  rsv1 : rsv1Field w = 0

/-- One word at most has the fields of a command. -/
theorem HasFields.unique {i : Instr} {v w : Word} (hv : i.HasFields v) (hw : i.HasFields w) : v = w :=
  word_ext_fields (hv.op.trans hw.op.symm) (hv.rsv0.trans hw.rsv0.symm) (hv.arg.trans hw.arg.symm)
    (hv.skip.trans hw.skip.symm) (hv.aexp.trans hw.aexp.symm) (hv.shift.trans hw.shift.symm)
    (hv.rsv1.trans hw.rsv1.symm)

end Instr

theorem hasFields_iff (i : Instr) (w : Word) :
    i.HasFields w ↔ opField w = i.op ∧ rsv0Field w = 0 ∧ argField w = i.arg ∧ skipField w = i.skip ∧
      aexpField w = i.aexp ∧ shiftField w = i.shift ∧ rsv1Field w = 0 :=
  ⟨fun ⟨hop, hrsv0, harg, hskip, haexp, hshift, hrsv1⟩ => ⟨hop, hrsv0, harg, hskip, haexp, hshift, hrsv1⟩,
    fun ⟨hop, hrsv0, harg, hskip, haexp, hshift, hrsv1⟩ => ⟨hop, hrsv0, harg, hskip, haexp, hshift, hrsv1⟩⟩

/-- The encoder puts each field where the decoder looks for it (R58), constructor by constructor. -/
theorem hasFields_encode (i : Instr) : i.HasFields (encode i) := by
  rw [hasFields_iff]
  cases i with
  | emit e s => revert e s; decide
  | pidig d => revert d; decide
  | pfdig d => revert d; decide
  | pedig d => revert d; decide
  | pdown sh => revert sh; decide
  | parse ae sh => revert ae sh; decide
  | _ => decide

/-- The command whose opcode and fields `w` has, whatever its other bits are. -/
def commandOf (w : Word) : Instr :=
  match (opField w).toNat with
  | 0x0 => .nop
  | 0x1 => .emit (argField w) (skipField w)
  | 0x2 => .fproj
  | 0x3 => .fmt
  | 0x4 => .pclr
  | 0x5 => .pidig (argField w)
  | 0x6 => .pseed
  | 0x7 => .pfdig (argField w)
  | 0x8 => .pfcomb
  | 0x9 => .pedig (argField w)
  | 0xA => .pexp
  | 0xB => .pdown (shiftField w)
  | _ => .parse (aexpField w) (shiftField w)

/-- The decoder checks that command. -/
theorem decode_eq_checked {w : Word} (hop : (opField w).toNat < opcodeRows.length) :
    decode w = checked (usedFields (opField w).toNat) w (commandOf w) := by
  have h13 : (opField w).toNat < 13 := hop
  unfold decode commandOf
  generalize (opField w).toNat = k at *
  interval_cases k <;> rfl

/-- The fields of `w` are those of its command when the bits that the opcode leaves unused are 0. -/
theorem hasFields_commandOf_iff {w : Word} (hop : (opField w).toNat < opcodeRows.length) :
    (commandOf w).HasFields w ↔ unusedZero (usedFields (opField w).toNat) w = true := by
  have h13 : (opField w).toNat < 13 := hop
  have hfield : opField w = BitVec.ofNat 4 (opField w).toNat := by simp
  rw [hasFields_iff]
  unfold commandOf
  generalize (opField w).toNat = k at *
  interval_cases k <;>
    simp [hfield, Instr.op, Instr.arg, Instr.skip, Instr.aexp, Instr.shift, unusedZero, usedFields] <;> tauto

/-- A word with a command's fields has that command. -/
theorem commandOf_of_hasFields {i : Instr} {w : Word} (h : i.HasFields w) : commandOf w = i := by
  obtain ⟨hop, -, harg, hskip, haexp, hshift, -⟩ := h
  unfold commandOf
  rw [hop, harg, hskip, haexp, hshift]
  cases i <;> rfl

/-- The opcode of every command has a row. -/
theorem op_lt (i : Instr) : i.op.toNat < opcodeRows.length := by
  cases i <;> exact of_decide_eq_true rfl

/-- A word decodes to a command exactly when it has the command's fields and ARG is in range (R57). -/
theorem decode_eq_ok_iff (w : Word) (i : Instr) : decode w = .ok i ↔ i.HasFields w ∧ i.wf = true := by
  constructor
  · intro hdecode
    have hop : (opField w).toNat < opcodeRows.length := ((exists_decode_eq_ok_iff w).1 ⟨i, hdecode⟩).1
    rw [decode_eq_checked hop] at hdecode
    obtain ⟨hzero, hwf, rfl⟩ := (checked_eq_ok_iff ..).1 hdecode
    exact ⟨(hasFields_commandOf_iff hop).2 hzero, hwf⟩
  · rintro ⟨hfields, hwf⟩
    have hop : (opField w).toNat < opcodeRows.length := hfields.op ▸ op_lt i
    have hi := commandOf_of_hasFields hfields
    have hzero := (hasFields_commandOf_iff hop).1 (hi.symm ▸ hfields)
    rw [decode_eq_checked hop, hi]
    exact (checked_eq_ok_iff ..).2 ⟨hzero, hwf, rfl⟩

/-- Settles O1: the encoded word has the command's fields. -/
theorem decodeOfEncode : Obligations.DecodeOfEncode := by
  unfold Obligations.DecodeOfEncode
  exact fun i hwf => (decode_eq_ok_iff _ i).2 ⟨hasFields_encode i, hwf⟩

/-- Settles O2: a word that decodes has the command's fields, and so does the encoded word. -/
theorem encodeOfDecode : Obligations.EncodeOfDecode := by
  unfold Obligations.EncodeOfDecode
  intro w i hdecode
  obtain ⟨hfields, hwf⟩ := (decode_eq_ok_iff w i).1 hdecode
  exact ⟨hwf, (hasFields_encode i).unique hfields⟩

/-- Settles O4: the first words have the fields the table names, and the others are illegal by the rows. -/
theorem specWordsDecode : Obligations.SpecWordsDecode := by
  unfold Obligations.SpecWordsDecode
  refine ⟨rfl, rfl, rfl, rfl, rfl, rfl, rfl, rfl, rfl, fun w hw => decode_ne_ok_of_illegal ?illegal⟩
  case illegal => fin_cases hw <;> rfl

end Sys2Proof
end

section
/-! PARSE is a function of the text, the parameters and the index it starts at (R89): two runs over the same text, at
whatever indices and in whatever states, go through the same parts and compute the same working registers. -/

namespace Sys2Proof.Machine

/-! ### The working registers -/

/-- `e` with the working registers of `w` (R31 to R34), and with the sign `sg` in NEG. -/
def withWork (sg : Bool) (e w : State) : State :=
  { e with
    iacc := w.iacc, icnt := w.icnt, fval := w.fval, fscl := w.fscl, expm := w.expm, accLo := w.accLo, accHi := w.accHi
    pflags := signFlags sg (expNegFlag w.pflags) }

@[simp] theorem textAt_withWork (sg : Bool) (e w : State) (p : Nat) : (withWork sg e w).textAt p = e.textAt p :=
  textAt_congr rfl rfl rfl p

@[simp] theorem params_withWork (sg : Bool) (e w : State) : (withWork sg e w).params = e.params := rfl

/-- PCLR leaves the working registers clear, and no sign. -/
theorem withWork_doPclr (s t : State) : withWork false s (doPclr t) = doPclr s := by
  have hflags : signFlags false (expNegFlag 0x00000000#32) = 0x00000000#32 := by decide
  simp only [withWork, doPclr, hflags]

theorem setAcc_withWork (sg : Bool) (e w : State) (v : Wide) :
    (withWork sg e w).setAcc v = withWork sg e (w.setAcc v) := rfl

theorem markNeg_withWork (e w : State) : (withWork false e w).markNeg = withWork true e w := by
  have hset : ∀ b, setNeg (signFlags false b) = signFlags true b := by decide
  rw [State.markNeg, withWork, withWork, hset]

/-- `f` acts on the working registers alone, whatever NEG is, and leaves FSCL positive. -/
def WorkStep (f : State → State) : Prop :=
  ∀ w, 0 < w.fscl.toNat → 0 < (f w).fscl.toNat ∧ ∀ sg e, f (withWork sg e w) = withWork sg e (f w)

/-- EXPNEG cleared, as where a marker is given back. -/
def State.unmarkExpNeg (s : State) : State := { s with pflags := clearExpNeg s.pflags }

theorem workStep_doPidig (d : Nat) : WorkStep (doPidig d) := fun _ hpos => ⟨hpos, fun _ _ => rfl⟩

theorem workStep_doPedig (d : Nat) : WorkStep (doPedig d) := fun _ hpos => ⟨hpos, fun _ _ => rfl⟩

theorem workStep_doPseed : WorkStep doPseed := fun _ hpos => ⟨hpos, fun _ _ => rfl⟩

theorem workStep_doPfdig (d : Nat) : WorkStep (doPfdig d) := by
  intro w hpos
  obtain hlt | hge := Nat.lt_or_ge w.fscl.toNat 100000000
  · have hscale : (BitVec.ofNat 32 (w.fscl.toNat * 10) : Word).toNat = w.fscl.toNat * 10 :=
      (BitVec.toNat_ofNat ..).trans (Nat.mod_eq_of_lt (by omega))
    rw [doPfdig_of_lt d hlt]
    exact ⟨by dsimp only; omega, fun sg e => doPfdig_of_lt (s := withWork sg e w) d hlt⟩
  · rw [doPfdig_of_ge d hge]
    exact ⟨hpos, fun sg e => doPfdig_of_ge (s := withWork sg e w) d hge⟩

/-- ACC with the ratio `v / d` added (R84). -/
def addRatio (a : Wide) (v d : Word) : Wide := BitVec.ofNat 64 (a.toNat + v.toNat * 2 ^ 32 / d.toNat)

/-- With FSCL positive PFCOMB adds the ratio and raises no flag (R84). -/
theorem doPfcomb_of_pos {s : State} (hpos : 0 < s.fscl.toNat) :
    doPfcomb s = s.setAcc (addRatio s.acc s.fval s.fscl) :=
  ((doPfcomb_cases s).resolve_left fun hzero => hpos.ne' hzero.1).2

theorem workStep_doPfcomb : WorkStep doPfcomb := by
  refine fun w hpos => ⟨by rwa [doPfcomb_of_pos hpos, State.setAcc_fscl], fun sg e => ?_⟩
  have hpos' : 0 < (withWork sg e w).fscl.toNat := hpos
  have hratio : addRatio (withWork sg e w).acc (withWork sg e w).fval (withWork sg e w).fscl =
      addRatio w.acc w.fval w.fscl := rfl
  rw [doPfcomb_of_pos hpos, doPfcomb_of_pos hpos', hratio, setAcc_withWork]

theorem workStep_doPexp : WorkStep doPexp := by
  refine fun w hpos => ⟨hpos, fun sg e => ?_⟩
  have hflag : expNegFlag (withWork sg e w).pflags = expNegFlag w.pflags := expNegFlag_signFlags sg _
  rw [doPexp, hflag]
  rfl

theorem expNegFlag_setExpNeg (pf : Word) : expNegFlag (setExpNeg pf) = true := by
  rw [expNegFlag, setExpNeg, BitVec.getLsbD_or]
  exact Bool.or_true _

theorem expNegFlag_clearExpNeg (pf : Word) : expNegFlag (clearExpNeg pf) = false := by
  rw [expNegFlag, clearExpNeg, BitVec.getLsbD_and]
  exact Bool.and_false _

theorem workStep_markExpNeg : WorkStep State.markExpNeg := by
  refine fun w hpos => ⟨hpos, fun sg e => ?_⟩
  have hset : ∀ sg b, setExpNeg (signFlags sg b) = signFlags sg true := by decide
  simp only [State.markExpNeg, withWork, hset, expNegFlag_setExpNeg]

theorem workStep_unmarkExpNeg : WorkStep State.unmarkExpNeg := by
  refine fun w hpos => ⟨hpos, fun sg e => ?_⟩
  have hclear : ∀ sg b, clearExpNeg (signFlags sg b) = signFlags sg false := by decide
  simp only [State.unmarkExpNeg, withWork, hclear, expNegFlag_clearExpNeg]

/-! ### Two runs over the same text -/

/-- The text of `e'` from `a'` on is that of `e` from `a` on, and the parameters are the same. -/
structure SameTextFrom (e e' : State) (a a' : Nat) : Prop where
  params : e'.params = e.params
  text : ∀ j, e'.textAt (a' + j) = e.textAt (a + j)

/-- Index `a + j` is in the text that begins at `a`, or at its end. -/
def Reach (e : State) (a j : Nat) : Prop := e.params.wf = true → a + j ≤ max a e.params.txtLen

theorem Reach.zero (e : State) (a : Nat) : Reach e a 0 := fun _ => le_max_left ..

/-- A byte that is not 0x00 lies before the end of TXT. -/
theorem Reach.succ {e : State} {a j : Nat} (h : e.params.wf = true → e.textAt (a + j) ≠ chNul) : Reach e a (j + 1) := by
  intro hwf
  have hlt : ¬ e.params.txtLen ≤ a + j := fun hge => h hwf (textAt_beyond hge)
  exact le_max_of_le_right (by omega)

/-- Two runs stand at the same place of their texts, with the same working registers but for the sign. -/
def Mirrors (e e' : State) (a a' : Nat) (sg sg' : Bool) (r r' : Nat × State) : Prop :=
  ∃ j w, 0 < w.fscl.toNat ∧ Reach e a j ∧ Reach e' a' j ∧
    r = (a + j, withWork sg e w) ∧ r' = (a' + j, withWork sg' e' w)

/-- Step 7 from a marker on, by where its sign and its digits end. -/
theorem parseExponent_withWork {ae : Bool} {e w v u : State} {sg : Bool} {a m k l : Nat}
    (hmark : (ae && isExpMark (e.textAt m)) = true)
    (htake : takeSign State.markExpNeg (m + 1) (withWork sg e w) = (a + k, withWork sg e v))
    (hscan : scanExponent e.params.txtLen (a + k) (withWork sg e v) = (a + l, withWork sg e u)) :
    parseExponent ae m (withWork sg e w) =
      if l = k ∧ e.params.expBacktrack = true then (m, (withWork sg e u).unmarkExpNeg)
      else (a + l, doPexp (withWork sg e u)) := by
  rw [parseExponent_of_mark (by simpa using hmark) htake hscan]
  simp only [Nat.add_right_inj]
  rfl

section
variable {e e' : State} {a a' : Nat} {sg sg' : Bool} {r r' : Nat × State}

theorem Mirrors.map (h : Mirrors e e' a a' sg sg' r r') {f : State → State} (hf : WorkStep f) :
    Mirrors e e' a a' sg sg' (r.1, f r.2) (r'.1, f r'.2) := by
  obtain ⟨j, w, hpos, hreach, hreach', rfl, rfl⟩ := h
  obtain ⟨hpos', hcomm⟩ := hf w hpos
  exact ⟨j, f w, hpos', hreach, hreach', by rw [hcomm], by rw [hcomm]⟩

variable (ht : SameTextFrom e e' a a')
include ht

theorem SameTextFrom.reach_succ {j : Nat} (h : e.params.wf = true → e.textAt (a + j) ≠ chNul) :
    Reach e a (j + 1) ∧ Reach e' a' (j + 1) :=
  ⟨.succ h, .succ (by rwa [ht.text, ht.params])⟩

/-- Both runs skip the same bytes. -/
theorem SameTextFrom.skipWhile {test : Byte → Bool} (htest : e.params.wf = true → test chNul = false) (w w' : State)
    (n j : Nat) (hreach : Reach e a j) (hreach' : Reach e' a' j) :
    ∃ k, Reach e a k ∧ Reach e' a' k ∧ skipWhile test (withWork sg e w) n (a + j) = a + k ∧
      skipWhile test (withWork sg' e' w') n (a' + j) = a' + k := by
  induction n generalizing j with
  | zero => exact ⟨j, hreach, hreach', rfl, rfl⟩
  | succ n ih =>
    unfold Machine.skipWhile
    simp only [textAt_withWork, ht.text]
    split
    · next hbyte =>
      obtain ⟨hsucc, hsucc'⟩ := ht.reach_succ fun hwf hnul => by
        rw [hnul, htest hwf] at hbyte
        cases hbyte
      exact ih (j + 1) hsucc hsucc'
    · exact ⟨j, hreach, hreach', rfl, rfl⟩

/-- Both runs take the same sign. -/
theorem Mirrors.takeSign (h : Mirrors e e' a a' sg sg' r r') {onMinus : State → State} (hminus : WorkStep onMinus) :
    Mirrors e e' a a' sg sg' (takeSign onMinus r.1 r.2) (takeSign onMinus r'.1 r'.2) := by
  obtain ⟨j, w, hpos, hreach, hreach', rfl, rfl⟩ := h
  simp only [Machine.takeSign, textAt_withWork, ht.text]
  split
  · next hplus =>
    obtain ⟨hsucc, hsucc'⟩ := ht.reach_succ (j := j) fun _ => by rw [hplus]; decide
    exact ⟨j + 1, w, hpos, hsucc, hsucc', rfl, rfl⟩
  · split
    · next hchar =>
      obtain ⟨hsucc, hsucc'⟩ := ht.reach_succ (j := j) fun _ => by rw [hchar]; decide
      exact Mirrors.map ⟨j + 1, w, hpos, hsucc, hsucc', rfl, rfl⟩ hminus
    · exact ⟨j, w, hpos, hreach, hreach', rfl, rfl⟩

/-- Both runs scan the same digits. -/
theorem Mirrors.scan (h : Mirrors e e' a a' sg sg' r r') {scan : Nat → Nat → State → Nat × State} {go : State → Bool}
    {f : Nat → State → State} (hscan : DigitScan scan go f) (hf : ∀ d, WorkStep (f d))
    (hgo : ∀ sg e w, go (withWork sg e w) = go w) (n : Nat) :
    Mirrors e e' a a' sg sg' (scan n r.1 r.2) (scan n r'.1 r'.2) := by
  induction n generalizing r r' with
  | zero => rwa [hscan.zero, hscan.zero]
  | succ n ih =>
    obtain ⟨j, w, hpos, hreach, hreach', rfl, rfl⟩ := h
    simp only [hscan.succ, textAt_withWork, ht.text, hgo]
    split
    · next hcond =>
      have hdigit : isDigit (e.textAt (a + j)) = true := (Bool.and_eq_true_iff.1 hcond).1
      obtain ⟨hsucc, hsucc'⟩ := ht.reach_succ (j := j) fun _ => ne_nul_of_isDigit hdigit
      exact ih (Mirrors.map ⟨j + 1, w, hpos, hsucc, hsucc', rfl, rfl⟩ (hf _))
    · exact ⟨j, w, hpos, hreach, hreach', rfl, rfl⟩

/-- Both runs read the same fraction. -/
theorem Mirrors.parseFraction (h : Mirrors e e' a a' sg sg' r r') :
    Mirrors e e' a a' sg sg' (parseFraction r.1 r.2) (parseFraction r'.1 r'.2) := by
  obtain ⟨j, w, hpos, hreach, hreach', rfl, rfl⟩ := h
  simp only [Machine.parseFraction, textAt_withWork, params_withWork, ht.text, ht.params]
  split
  · next hsep =>
    obtain ⟨hsucc, hsucc'⟩ := ht.reach_succ (j := j) fun _ hnul => by
      rw [hnul] at hsep
      obtain h | h := eq_of_isSep hsep <;> exact absurd h (by decide)
    have hstart : Mirrors e e' a a' sg sg' (a + (j + 1), withWork sg e w) (a' + (j + 1), withWork sg' e' w) :=
      ⟨j + 1, w, hpos, hsucc, hsucc', rfl, rfl⟩
    exact (hstart.scan ht digitScan_fraction workStep_doPfdig (fun _ _ _ => rfl) _).map workStep_doPfcomb
  · exact ⟨j, w, hpos, hreach, hreach', rfl, rfl⟩

/-- Both runs read the same exponent, or give the same marker back. -/
theorem Mirrors.parseExponent (ae : Bool) (h : Mirrors e e' a a' sg sg' r r') :
    Mirrors e e' a a' sg sg' (parseExponent ae r.1 r.2) (parseExponent ae r'.1 r'.2) := by
  obtain ⟨j, w, hpos, hreach, hreach', rfl, rfl⟩ := h
  have hhere (v : State) (hv : 0 < v.fscl.toNat) :
      Mirrors e e' a a' sg sg' (a + j, withWork sg e v) (a' + j, withWork sg' e' v) :=
    ⟨j, v, hv, hreach, hreach', rfl, rfl⟩
  cases hmark : ae && isExpMark (e.textAt (a + j)) with
  | false =>
    simp only [Machine.parseExponent, textAt_withWork, ht.text, hmark]
    exact hhere w hpos
  | true =>
    obtain ⟨hsucc, hsucc'⟩ := ht.reach_succ (j := j) fun _ hnul => by
      rw [hnul] at hmark
      cases ae <;> exact absurd hmark (by decide)
    have hstart : Mirrors e e' a a' sg sg' (a + j + 1, withWork sg e w) (a' + j + 1, withWork sg' e' w) :=
      ⟨j + 1, w, hpos, hsucc, hsucc', rfl, rfl⟩
    have hsign := hstart.takeSign ht workStep_markExpNeg
    have hscan := hsign.scan ht digitScan_exponent workStep_doPedig (fun _ _ _ => rfl) e.params.txtLen
    obtain ⟨k, v, hv, hk, hk', htake, htake'⟩ := hsign
    rw [htake, htake'] at hscan
    obtain ⟨l, u, hu, hl, hl', hexp, hexp'⟩ := hscan
    have hrun := parseExponent_withWork (by simpa using hmark) htake hexp
    have hrun' := parseExponent_withWork (by simpa [ht.text] using hmark) htake' (ht.params ▸ hexp')
    rw [ht.params] at hrun'
    dsimp only
    rw [hrun, hrun']
    split
    · exact (hhere u hu).map workStep_unmarkExpNeg
    · exact Mirrors.map ⟨l, u, hu, hl, hl', rfl, rfl⟩ workStep_doPexp

end

/-! ### The whole of PARSE -/

/-- PEND written with an index of the text. -/
def State.setPend (s : State) (p : Nat) : State := { s with pend := BitVec.ofNat 32 p }

/-- PARSE from step 3 on, with `n` for TXT_LEN: what follows the sign. -/
def parseRest (ae sh : Bool) (n : Nat) (r : Nat × State) : State :=
  let (p, s) := scanInteger n r.1 r.2
  if s.icnt = 0x00000000#32 then { s.setPend p with result := 0x00000000#32 }
  else
    let (q, t) := parseExponent ae (parseFraction p (doPseed s)).1 (parseFraction p (doPseed s)).2
    doPdown sh (t.setPend (skipWhile isDigit t n q))

/-- PARSE by its whitespace, its sign and the rest. -/
theorem doParse_eq_parseRest (ae sh : Bool) (s : State) :
    doParse ae sh s =
      parseRest ae sh s.params.txtLen (takeSign State.markNeg
        (skipWhile (isSpace s.params) (doPclr s) s.params.txtLen s.pstart.toNat) (doPclr s)) := by
  dsimp only [doParse, parseRest]
  rfl

/-- What PARSE leaves: PEND, the working registers, and RESULT as the sign says. -/
def finish (sg : Bool) (e w : State) (p : Nat) (v : Word) : State :=
  { (withWork sg e w).setPend p with result := if sg then negate32 v else v }

/-- PDOWN and PEND leave what `finish` says. -/
theorem doPdown_withWork (sg sh : Bool) (e w : State) (p : Nat) :
    doPdown sh ((withWork sg e w).setPend p) =
      finish sg e w p (BitVec.ofNat 32 (downShift e.params.downcvtRound sh w.acc.toNat)) := by
  have hneg : negFlag ((withWork sg e w).setPend p).pflags = sg := negFlag_signFlags ..
  rw [doPdown, hneg]
  rfl

/-- Two runs leave the same, but for the sign and for where their texts begin. -/
theorem Mirrors.parseRest {e e' : State} {a a' : Nat} {sg sg' : Bool} {r r' : Nat × State}
    (ht : SameTextFrom e e' a a') (h : Mirrors e e' a a' sg sg' r r') (ae sh : Bool) (n : Nat) :
    ∃ j w v, Reach e a j ∧ Reach e' a' j ∧ parseRest ae sh n r = finish sg e w (a + j) v ∧
      parseRest ae sh n r' = finish sg' e' w (a' + j) v := by
  have hints := h.scan ht digitScan_integer workStep_doPidig (fun _ _ _ => rfl) n
  have hexp := ((hints.map workStep_doPseed).parseFraction ht).parseExponent ht ae
  obtain ⟨j, w, -, hj, hj', hscan, hscan'⟩ := hints
  simp only [hscan, hscan'] at hexp
  obtain ⟨k, u, -, hk, hk', hrun, hrun'⟩ := hexp
  simp only [Machine.parseRest, hscan, hscan', hrun, hrun']
  by_cases hzero : w.icnt = 0x00000000#32
  · have hneg : negate32 0x00000000#32 = 0x00000000#32 := by decide
    have hnone (sg : Bool) (e : State) (p : Nat) :
        { (withWork sg e w).setPend p with result := 0x00000000#32 } = finish sg e w p 0x00000000#32 := by
      rw [finish, hneg, ite_self]
    exact ⟨j, w, 0x00000000#32, hj, hj', (if_pos hzero).trans (hnone sg e _), (if_pos hzero).trans (hnone sg' e' _)⟩
  · obtain ⟨l, hl, hl', hskip, hskip'⟩ :=
      ht.skipWhile (sg := sg) (sg' := sg') (fun _ => isDigit_nul) u u n k hk hk'
    refine ⟨l, u, BitVec.ofNat 32 (downShift e.params.downcvtRound sh u.acc.toNat), hl, hl',
      (if_neg hzero).trans ?_, (if_neg hzero).trans ?_⟩
    · rw [hskip, doPdown_withWork]
    · rw [hskip', doPdown_withWork, ht.params]

/-- Both runs take the same sign before the digits. -/
theorem Mirrors.takeSign_markNeg {e e' : State} {a a' : Nat} {r r' : Nat × State} (ht : SameTextFrom e e' a a')
    (h : Mirrors e e' a a' false false r r') :
    ∃ sg, Mirrors e e' a a' sg sg (Machine.takeSign State.markNeg r.1 r.2) (Machine.takeSign State.markNeg r'.1 r'.2) := by
  obtain ⟨j, w, hpos, hreach, hreach', rfl, rfl⟩ := h
  simp only [Machine.takeSign, textAt_withWork, ht.text, markNeg_withWork]
  split
  · next hplus =>
    obtain ⟨hsucc, hsucc'⟩ := ht.reach_succ (j := j) fun _ => by rw [hplus]; decide
    exact ⟨false, j + 1, w, hpos, hsucc, hsucc', rfl, rfl⟩
  · split
    · next hminus =>
      obtain ⟨hsucc, hsucc'⟩ := ht.reach_succ (j := j) fun _ => by rw [hminus]; decide
      exact ⟨true, j + 1, w, hpos, hsucc, hsucc', rfl, rfl⟩
    · exact ⟨false, j, w, hpos, hreach, hreach', rfl, rfl⟩

/-- PARSE of the same text leaves the same registers, wherever and in whatever state it runs. -/
theorem doParse_of_sameText {s s' : State} (ht : SameTextFrom s s' s.pstart.toNat s'.pstart.toNat) (ae sh : Bool) :
    ∃ sg j w v, Reach s s.pstart.toNat j ∧ Reach s' s'.pstart.toNat j ∧
      doParse ae sh s = finish sg s w (s.pstart.toNat + j) v ∧
      doParse ae sh s' = finish sg s' w (s'.pstart.toNat + j) v := by
  obtain ⟨j, hj, hj', hskip, hskip'⟩ := ht.skipWhile (sg := false) (sg' := false) isSpace_nul (doPclr s) (doPclr s)
    s.params.txtLen 0 (Reach.zero _ _) (Reach.zero _ _)
  rw [withWork_doPclr, Nat.add_zero] at hskip hskip'
  have hstart : Mirrors s s' s.pstart.toNat s'.pstart.toNat false false (s.pstart.toNat + j, doPclr s)
      (s'.pstart.toNat + j, doPclr s') :=
    ⟨j, doPclr s, Nat.one_pos, hj, hj', by rw [withWork_doPclr], by rw [withWork_doPclr]⟩
  obtain ⟨sg, hsign⟩ := hstart.takeSign_markNeg ht
  obtain ⟨k, w, v, hk, hk', hrest, hrest'⟩ := hsign.parseRest ht ae sh s.params.txtLen
  refine ⟨sg, k, w, v, hk, hk', ?_, ?_⟩
  · rw [doParse_eq_parseRest, hskip, hrest]
  · rw [doParse_eq_parseRest, ht.params, hskip', hrest']

end Sys2Proof.Machine
end

section
/-! What PARSE writes (R89, R93): its frame and the range of PEND, the text without an integer digit, and the text after a
'-'. -/

namespace Sys2Proof.Machine

/-- A legal TXT_LEN is at most 2048 (R8). -/
theorem txtLen_le_of_wf {p : Params} (hwf : p.wf = true) : p.txtLen ≤ 2048 := by
  simp only [Params.wf, Bool.and_eq_true, decide_eq_true_eq] at hwf
  omega

/-- An index that PARSE reaches fits PEND. -/
theorem toNat_pend_of_reach {s : State} {p j : Nat} (hwf : s.params.wf = true) (hp : p < 2 ^ 32) (h : Reach s p j) :
    (BitVec.ofNat 32 (p + j) : Word).toNat = p + j := by
  have hle := h hwf
  have htxt := txtLen_le_of_wf hwf
  exact (BitVec.toNat_ofNat ..).trans (Nat.mod_eq_of_lt (by omega))

/-- Settles O49: PARSE leaves a `finish`, at an index its text reaches. -/
theorem parseWritesOnlyParseState : Obligations.ParseWritesOnlyParseState := by
  unfold Obligations.ParseWritesOnlyParseState
  intro ae sh s
  obtain ⟨sg, j, w, v, hreach, -, hparse, -⟩ := doParse_of_sameText (s := s) (s' := s) ⟨rfl, fun _ => rfl⟩ ae sh
  refine ⟨_, congrArg Host.Outcome.next hparse, rfl, fun hwf => ?_⟩
  have hpend : (finish sg s w (s.pstart.toNat + j) v).pend.toNat = s.pstart.toNat + j := toNat_pend_of_reach hwf s.pstart.isLt hreach
  rw [hpend]
  exact ⟨Nat.le_add_right .., hreach hwf⟩

/-- The whitespace loop runs over the whitespace of a text, up to a byte that is none. -/
theorem skipWhile_isSpace_of_text {s t : State} {p : Nat} {ws : List Byte} (htext : t.textAt = s.textAt)
    (hwf : s.params.wf = true) (hat : TextAt s p ws) (hws : ∀ c ∈ ws, isSpace s.params c = true)
    (hstop : isSpace s.params (s.textAt (p + ws.length)) = false) :
    skipWhile (isSpace s.params) t s.params.txtLen p = p + ws.length := by
  have hnul : chNul ∉ ws := fun hmem => absurd ((isSpace_nul hwf).symm.trans (hws _ hmem)) Bool.false_ne_true
  refine skipWhile_run (hat.length_le hnul) ?_ hws (by rwa [htext])
  rwa [TextAt, htext]

theorem textAt_markNeg (s : State) (p : Nat) : s.markNeg.textAt p = s.textAt p := textAt_congr rfl rfl rfl p

/-- Without an integer digit PARSE ends after the sign, with RESULT 0 (R89 step 4). -/
theorem parseRest_of_not_digit {s : State} {p : Nat} (ae sh : Bool) (n : Nat) (hdigit : isDigit (s.textAt p) = false)
    (hicnt : s.icnt = 0x00000000#32) :
    parseRest ae sh n (p, s) = { s.setPend p with result := 0x00000000#32 } := by
  have hscan : scanInteger n p s = (p, s) := digitScan_integer.run (ds := []) (Nat.zero_le _) nofun nofun (.inl hdigit)
  rw [parseRest, hscan]
  exact if_pos hicnt

/-- The byte at which the whitespace of a text ends: a sign, or what `hnone` says it is. -/
theorem isSpace_sign_false {s : State} {q : Nat} {sg : Option Bool} (hwf : s.params.wf = true)
    (hsign : TextAt s q (signBytes sg)) (hnone : sg = none → isSpace s.params (s.textAt q) = false) :
    isSpace s.params (s.textAt q) = false := by
  rcases sg with _ | _ | _
  · exact hnone rfl
  · rw [(TextAt.cons_iff.1 hsign).1]
    exact isSpace_of_barred hwf rfl
  · rw [(TextAt.cons_iff.1 hsign).1]
    exact isSpace_of_barred hwf rfl

/-- PARSE comes to the digits of a text behind its whitespace and its sign. -/
theorem doParse_of_signed {s : State} {ws : List Byte} {sg : Option Bool} (ae sh : Bool) (hwf : s.params.wf = true)
    (hws : ∀ c ∈ ws, isSpace s.params c = true) (hatWs : TextAt s s.pstart.toNat ws)
    (hatSign : TextAt s (s.pstart.toNat + ws.length) (signBytes sg))
    (hnone : sg = none → isSpace s.params (s.textAt (s.pstart.toNat + ws.length)) = false ∧
      s.textAt (s.pstart.toNat + ws.length) ≠ chPlus ∧ s.textAt (s.pstart.toNat + ws.length) ≠ chMinus) :
    doParse ae sh s = parseRest ae sh s.params.txtLen (s.pstart.toNat + ws.length + (signBytes sg).length,
      if sg = some true then (doPclr s).markNeg else doPclr s) := by
  have htext : (doPclr s).textAt = s.textAt := funext (textAt_doPclr s)
  have hskip := skipWhile_isSpace_of_text htext hwf hatWs hws
    (isSpace_sign_false hwf hatSign fun hsg => (hnone hsg).1)
  have hsign := takeSign_signBytes (s := doPclr s) State.markNeg (by rwa [TextAt, htext])
    fun hsg => by rw [htext]; exact (hnone hsg).2
  rw [doParse_eq_parseRest, hskip, hsign]

/-- Settles O50: the scans stop at the byte after the sign, and no digit was counted. -/
theorem parseWithoutIntegerDigitsGivesZero : Obligations.ParseWithoutIntegerDigitsGivesZero := by
  unfold Obligations.ParseWithoutIntegerDigitsGivesZero
  rintro ae sh s ws sg _ hwf hws htext rfl hdigit hnosign
  obtain ⟨hatWs, hatSign⟩ := TextAt.append_iff.1 htext
  have hparse := doParse_of_signed ae sh hwf (List.all_eq_true.1 hws) hatWs hatSign
    (by rintro rfl; exact hnosign rfl)
  refine congrArg Host.Outcome.next (hparse.trans ?_)
  have hset : setNeg 0x00000000#32 = 1 := by decide
  split
  · next hsg =>
    rw [parseRest_of_not_digit ae sh _ (by rwa [textAt_markNeg, textAt_doPclr]) rfl]
    simp only [State.setPend, State.markNeg, doPclr, hset]
    rfl
  · next hsg =>
    rw [parseRest_of_not_digit ae sh _ (by rwa [textAt_doPclr]) rfl]
    rfl

/-- Settles O52: after the '-' both runs read the same text, with NEG set in the one only. -/
theorem parseNegatesAfterMinus : Obligations.ParseNegatesAfterMinus := by
  unfold Obligations.ParseNegatesAfterMinus
  intro ae sh s s' hwf hparams hdigit hminus htext
  have ht : SameTextFrom s s' s.pstart.toNat (s'.pstart.toNat + 1) := ⟨hparams, htext⟩
  have hwf' : s'.params.wf = true := hparams ▸ hwf
  have hplain := doParse_of_signed (ws := []) (sg := none) ae sh hwf nofun nofun nofun
    fun _ => ⟨isSpace_of_isDigit hwf hdigit, ne_sign_of_isDigit hdigit⟩
  have hsigned := doParse_of_signed (ws := []) (sg := some true) ae sh hwf' nofun nofun
    (TextAt.cons_iff.2 ⟨hminus, nofun⟩) nofun
  have hstart : Mirrors s s' s.pstart.toNat (s'.pstart.toNat + 1) false true (s.pstart.toNat, doPclr s)
      (s'.pstart.toNat + 1, (doPclr s').markNeg) :=
    ⟨0, doPclr s, Nat.one_pos, .zero _ _, .zero _ _, by rw [withWork_doPclr]; rfl,
      by rw [← markNeg_withWork, withWork_doPclr]⟩
  obtain ⟨j, w, v, hj, hj', hrest, hrest'⟩ := hstart.parseRest ht ae sh s.params.txtLen
  have hlt : s'.pstart.toNat < s'.params.txtLen := by
    by_contra hge
    rw [textAt_beyond (Nat.le_of_not_lt hge)] at hminus
    exact absurd hminus (by decide)
  have htxt := txtLen_le_of_wf hwf'
  have hpend := toNat_pend_of_reach hwf s.pstart.isLt hj
  have hpend' := toNat_pend_of_reach hwf' (by omega) hj'
  refine ⟨_, _, congrArg Host.Outcome.next (hplain.trans hrest),
    congrArg Host.Outcome.next (hsigned.trans (hparams ▸ hrest')), BitVec.toNat_ofNat .., ?_⟩
  dsimp only [finish, State.setPend]
  rw [hpend, hpend']
  omega

end Sys2Proof.Machine
end

section
/-! FMT (R76 to R78): the bytes that are written before the terminator, what the strip loop of `Canon` leaves of them, and
the minimal text of the projection. -/

namespace Sys2Proof.Machine

/-! ### What the projection means (R62, R73) -/

/-- The integer part and the fraction together, at the scale: the carry moves a whole between them. -/
theorem project_value (r : MulRound) (vv dd : Word) :
    (project r vv dd).ip * (project r vv dd).s + (project r vv dd).fs =
      magnitude vv / 65536 * scale (digitCount dd) + rawFraction r vv dd := by
  rw [project_ip, project_fs, project_s]
  split
  · rw [Nat.add_mul, Nat.one_mul]
    omega
  · rfl

/-- Rounding the fraction's product rounds the product of the whole magnitude. -/
theorem mulr_nearestUp_whole (u s : Nat) :
    u / 65536 * s + mulr .nearestUp (u % 65536) s = (u * s + 2 ^ 15) / 2 ^ 16 := by
  have hsplit : u * s = 65536 * (u / 65536 * s) + u % 65536 * s := by
    conv_lhs => rw [← Nat.div_add_mod u 65536, Nat.add_mul, Nat.mul_assoc]
  rw [mulr, hsplit]
  generalize u / 65536 * s = q
  generalize u % 65536 * s = f
  omega

/-- Settles O37: FINT * FSCALE + FFRAC is the rounded product of the whole magnitude. -/
theorem projectionRoundsToNearest : Obligations.ProjectionRoundsToNearest := by
  unfold Obligations.ProjectionRoundsToNearest
  intro s hround
  obtain ⟨hint, hffrac, hscale⟩ := toNat_writeProjection_projection s
  refine ⟨writeProjection s s.projection, rfl, ?value, ?range⟩
  case value =>
    rw [hint, hffrac, hscale, State.projection, hround, project_value, project_s, ← magnitude_eq_natAbs,
      ← mulr_nearestUp_whole, rawFraction]
  case range =>
    rw [hffrac, hscale]
    exact project_fs_lt ..

/-! ### OUT and the strip loop (R77) -/

/-- OUT begins with the bytes `bs`. -/
def OutIs (s : State) (bs : List Byte) : Prop := ∀ j b, bs[j]? = some b → s.outAt j = b

/-- `t` is `s` with OUT[lo .. hi-1] set to 0x00. -/
structure Cleared (lo hi : Nat) (s t : State) : Prop where
  frame : t = { s with mem := t.mem }
  zero : ∀ j, lo ≤ j → j < hi → t.outAt j = chNul
  other : ∀ a, a < outBase + lo ∨ outBase + hi ≤ a → t.byteAt a = s.byteAt a

namespace Cleared

variable {lo mid hi : Nat} {s t u : State}

theorem refl (n : Nat) (s : State) : Cleared n n s s :=
  ⟨rfl, fun _ hlo hhi => absurd hhi (Nat.not_lt.2 hlo), fun _ _ => rfl⟩

theorem single {n : Nat} (hn : n < s.params.outLen) : Cleared n (n + 1) s (s.outByte n chNul) := by
  have hbyte : s.outByte n chNul = s.writeByte (outBase + n) chNul := if_pos hn
  rw [hbyte]
  refine ⟨rfl, fun j hlo hhi => ?_, fun a ha => State.byteAt_writeByte_other _ _ (by omega)⟩
  obtain rfl : j = n := by omega
  exact State.byteAt_writeByte_same ..

theorem trans (hlo : lo ≤ mid) (hhi : mid ≤ hi) (hst : Cleared mid hi s t) (htu : Cleared lo mid t u) :
    Cleared lo hi s u := by
  refine ⟨?_, fun j hj hjhi => ?_, fun a ha => (htu.other a (by omega)).trans (hst.other a (by omega))⟩
  · have hframe := htu.frame
    rw [hst.frame] at hframe
    exact hframe
  · obtain hlt | hge := Nat.lt_or_ge j mid
    · exact htu.zero j hj hlt
    · exact (htu.other _ (.inr (Nat.add_le_add_left hge _))).trans (hst.zero j hge hjhi)

theorem params (h : Cleared lo hi s t) : t.params = s.params := by rw [h.frame]

/-- The text below the cleared bytes stays. -/
theorem outIs {bs text : List Byte} (h : Cleared text.length hi s t) (hout : OutIs s bs) (hpre : text <+: bs) :
    OutIs t text := by
  intro j b hb
  have hj : j < text.length := (List.getElem?_eq_some_iff.1 hb).1
  obtain ⟨rest, rfl⟩ := hpre
  exact (h.other _ (.inl (Nat.add_lt_add_left hj _))).trans (hout j b (by rw [List.getElem?_append_left hj, hb]))

end Cleared

/-- The last byte of a text that OUT begins with. -/
theorem OutIs.last {s : State} {bs : List Byte} (h : OutIs s bs) (hne : bs ≠ []) :
    s.outAt (bs.length - 1) = bs.getLast hne :=
  h _ _ (by rw [← List.getLast?_eq_getElem?, List.getLast?_eq_some_getLast hne])

/-- The strip loop leaves the text without its '0's at the end. -/
theorem stripZeros_of_outIs {bs : List Byte} {s : State} (hout : OutIs s bs) (hlen : bs.length ≤ s.params.outLen) :
    ∃ t, stripZeros bs.length s = ((bs.rdropWhile (· == chZero)).length, t) ∧
      Cleared (bs.rdropWhile (· == chZero)).length bs.length s t := by
  induction bs using List.reverseRecOn generalizing s with
  | nil => exact ⟨s, rfl, .refl 0 s⟩
  | append_singleton bs b ih =>
    rw [List.length_append, List.length_singleton] at hlen ⊢
    have hb : s.outAt bs.length = b := hout _ b List.getElem?_concat_length
    rw [stripZeros, hb]
    by_cases hzero : b = chZero
    · have hrest : OutIs (s.outByte bs.length chNul) bs := fun j c hc => by
        have hj : j < bs.length := (List.getElem?_eq_some_iff.1 hc).1
        exact (State.byteAt_outByte_other s chNul fun _ => by omega).trans (hout j c (by rw [List.getElem?_append_left hj, hc]))
      obtain ⟨t, hstrip, hcleared⟩ := ih hrest (by rw [State.outByte_params]; omega)
      have hle : (bs.rdropWhile (· == chZero)).length ≤ bs.length := (List.rdropWhile_prefix _ _).length_le
      rw [if_pos hzero, List.rdropWhile_concat_pos _ _ _ (by simpa using hzero)]
      exact ⟨t, hstrip, .trans hle (Nat.le_succ _) (.single (by omega)) hcleared⟩
    · rw [if_neg hzero, List.rdropWhile_concat_neg _ _ _ (by simpa using hzero), List.length_append,
        List.length_singleton]
      exact ⟨s, rfl, .refl _ s⟩

/-! ### The minimal text (R76, R77) -/

/-- Sign and integer part of the text. -/
def headText (neg : Bool) (ip : Nat) : List Byte := (if neg then [chMinus] else []) ++ decimalText ip

/-- The fraction of the minimal text, without its '0's at the end. -/
def fracText (f k : Nat) : List Byte := if k = 0 then [] else (paddedText f k).rdropWhile (· == chZero)

theorem canonicalText_eq (neg : Bool) (ip f k : Nat) :
    canonicalText neg ip f k = headText neg ip ++ if fracText f k = [] then [] else chDot :: fracText f k :=
  rfl

/-- No byte of a '.'-and-digits text is stripped before the '.'. -/
theorem rdropWhile_append_dot (head frac : List Byte) :
    (head ++ chDot :: frac).rdropWhile (· == chZero) = head ++ chDot :: frac.rdropWhile (· == chZero) := by
  induction frac using List.reverseRecOn with
  | nil => exact List.rdropWhile_concat_neg _ _ _ (by decide)
  | append_singleton frac b ih =>
    rw [← List.cons_append, ← List.append_assoc]
    by_cases hb : b = chZero
    · rw [List.rdropWhile_concat_pos _ _ _ (by simpa using hb), List.rdropWhile_concat_pos _ _ _ (by simpa using hb), ih]
    · rw [List.rdropWhile_concat_neg _ _ _ (by simpa using hb), List.rdropWhile_concat_neg _ _ _ (by simpa using hb),
        List.append_assoc, List.cons_append]

/-- `Canon` with a '.' leaves the head, and the '.' with the stripped fraction if anything is left of it. -/
theorem canon_of_outIs {head frac : List Byte} {s : State} (hout : OutIs s (head ++ chDot :: frac))
    (hlen : (head ++ chDot :: frac).length ≤ s.params.outLen) (hfrac : chDot ∉ frac) :
    ∃ text t, canon (head ++ chDot :: frac).length true s = (text.length, t) ∧
      Cleared text.length (head ++ chDot :: frac).length s t ∧ OutIs t text ∧
      text = head ++ if frac.rdropWhile (· == chZero) = [] then [] else chDot :: frac.rdropWhile (· == chZero) := by
  obtain ⟨t, hstrip, hcleared⟩ := stripZeros_of_outIs hout hlen
  have hpre := List.rdropWhile_prefix (· == chZero) (head ++ chDot :: frac)
  rw [rdropWhile_append_dot] at hstrip hcleared hpre
  have hkept := hcleared.outIs hout hpre
  rw [canon, if_pos rfl, hstrip]
  dsimp only
  by_cases hnil : frac.rdropWhile (· == chZero) = []
  · have hn : (head ++ [chDot]).length = head.length + 1 := List.length_append
    rw [hnil] at hcleared hkept hpre ⊢
    have hdot : t.outAt ((head ++ [chDot]).length - 1) = chDot := hkept (head ++ [chDot]).length.pred chDot (by simp)
    rw [if_pos hdot, if_pos rfl, List.append_nil, hn, Nat.add_sub_cancel]
    have hle := hpre.length_le
    rw [hn] at hcleared hle
    have hlast : Cleared head.length (head.length + 1) t (t.outByte head.length chNul) :=
      .single (by rw [hcleared.params]; omega)
    exact ⟨head, _, rfl, .trans (Nat.le_succ _) hle hcleared hlast, hlast.outIs hkept (List.prefix_append ..), rfl⟩
  · have hlast : (head ++ chDot :: frac.rdropWhile (· == chZero)).getLast (by simp) ≠ chDot := by
      rw [List.getLast_append_of_ne_nil _ (List.cons_ne_nil _ _), List.getLast_cons hnil]
      exact fun h => hfrac (h ▸ (List.rdropWhile_prefix ..).subset (List.getLast_mem hnil))
    rw [if_neg (by rwa [hkept.last (by simp)]), if_neg hnil]
    exact ⟨_, t, rfl, hcleared, hkept, rfl⟩

/-! ### The bytes before the terminator (R76) -/

/-- The number of fraction digits that DIGITS asks for (R22, R60). -/
def State.places (s : State) : Nat := min (s.digits.toNat % 8) 5

/-- The scale has as many zeros as fraction digits are asked for. -/
theorem projection_s (s : State) : s.projection.s = 10 ^ s.places := by
  rw [State.projection, project_s, digitCount_eq_mod, State.places]
  exact (by decide : ∀ k < 8, scale k = 10 ^ min k 5) _ (Nat.mod_lt _ (by decide))

theorem projection_fs_lt (s : State) : s.projection.fs < 10 ^ s.places :=
  projection_s s ▸ project_fs_lt ..

theorem projection_ip_lt (s : State) : s.projection.ip < 10 ^ (4 + 1) :=
  (project_ip_le ..).trans_lt (by decide)

/-- The scale is 1 exactly where no fraction digit is asked for. -/
theorem projection_s_eq_one_iff (s : State) : s.projection.s = 1 ↔ s.places = 0 := by
  rw [projection_s, Nat.pow_eq_one]
  simp

theorem exp10_pow_places (s : State) : exp10 (10 ^ s.places) = s.places :=
  (by decide : ∀ k ≤ 5, exp10 (10 ^ k) = k) _ (Nat.min_le_right ..)

/-- The fraction as written before the strip loop. -/
def dotText (f k : Nat) : List Byte := if k = 0 then [] else chDot :: paddedText f k

/-- FMT writes the sign, the integer part, and the padded fraction behind a '.'. -/
theorem rawText_projection (s : State) :
    rawText s.projection = headText s.projection.neg s.projection.ip ++ dotText s.projection.fs s.places := by
  rw [rawText, emitDigits_true_of_lt (projection_ip_lt s), projection_s, exp10_pow_places, headText, dotText]
  congr 1
  cases hk : s.places with
  | zero => rfl
  | succ k =>
    have hne : (10 : Nat) ^ (k + 1) ≠ 1 := by simp
    have hfs : s.projection.fs < 10 ^ (k + 1) := hk ▸ projection_fs_lt s
    rw [if_neg hne, if_neg k.succ_ne_zero, Nat.add_sub_cancel, emitDigits_false_of_lt hfs]

/-- The number of bytes before the terminator. -/
theorem length_rawText (s : State) :
    (rawText s.projection).length = (if s.projection.neg then 1 else 0) + (decimalText s.projection.ip).length +
      if s.places = 0 then 0 else s.places + 1 := by
  rw [rawText_projection, List.length_append, headText, List.length_append, dotText]
  congr 1
  · cases s.projection.neg <;> rfl
  · cases hk : s.places with
    | zero => rfl
    | succ k =>
      have hfs : s.projection.fs < 10 ^ (k + 1) := hk ▸ projection_fs_lt s
      rw [if_neg k.succ_ne_zero, if_neg k.succ_ne_zero, List.length_cons, length_paddedText hfs]

/-- The text and its terminator fit 13 bytes (R78 (d)). -/
theorem length_rawText_le (s : State) : (rawText s.projection).length ≤ 12 := by
  have hint : (decimalText s.projection.ip).length ≤ 4 + 1 := length_decimalText_le (projection_ip_lt s)
  have hplaces : s.places ≤ 5 := Nat.min_le_right ..
  rw [length_rawText]
  split <;> split <;> omega

/-! ### FMT -/

/-- A run of output bytes from the start of OUT that fits it. -/
theorem outBytes_of_fits {s : State} {bs : List Byte} (hlen : bs.length ≤ s.params.outLen)
    (hout : s.params.outLen ≤ 2 ^ 32) :
    s.outBytes 0 bs = { s with mem := (s.outBytes 0 bs).mem } ∧ OutIs (s.outBytes 0 bs) bs ∧
      ∀ a, a < outBase ∨ outBase + bs.length ≤ a → (s.outBytes 0 bs).byteAt a = s.byteAt a := by
  have hindex : ∀ j, j < bs.length → (0 + j) % 2 ^ 32 = j := fun j hj => by
    rw [Nat.zero_add, Nat.mod_eq_of_lt (by omega)]
  have hstatus : (s.outBytes 0 bs).status = s.status := by
    refine BitVec.eq_of_getLsbD_eq fun k _ => Bool.eq_iff_iff.2 ((s.getLsbD_status_outBytes 0 bs k).trans ?_)
    refine or_iff_left ?_
    rintro ⟨-, j, hj, hge⟩
    rw [hindex j hj] at hge
    omega
  refine ⟨?frame, fun j b hb => ?text, fun a ha => ?other⟩
  case frame =>
    have heq := s.outBytes_eq 0 bs
    rwa [hstatus] at heq
  case text =>
    have hj : j < bs.length := (List.getElem?_eq_some_iff.1 hb).1
    have hin : (0 + j) % 2 ^ 32 < s.params.outLen := by rw [hindex j hj]; omega
    have hbyte := s.outAt_outBytes (by omega) hb hin
    rwa [hindex j hj] at hbyte
  case other =>
    refine s.byteAt_outBytes_other fun j hj _ => ?_
    rw [hindex j hj]
    omega

/-- The text that FMT leaves in OUT. -/
def State.fmtText (s : State) : List Byte :=
  canonicalText s.projection.neg s.projection.ip s.projection.fs s.places

/-- `Canon` leaves the minimal text of the projection. -/
theorem canon_rawText {s t : State} (hout : OutIs t (rawText s.projection))
    (hlen : (rawText s.projection).length ≤ t.params.outLen) :
    ∃ u, canon (rawText s.projection).length (decide (s.projection.s ≠ 1)) t = (s.fmtText.length, u) ∧
      Cleared s.fmtText.length (rawText s.projection).length t u ∧ OutIs u s.fmtText := by
  have hs := projection_s_eq_one_iff s
  rw [State.fmtText, canonicalText_eq, fracText]
  rw [rawText_projection, dotText] at hout hlen ⊢
  by_cases hk : s.places = 0
  · simp only [hk, if_true, List.append_nil, hs.2 hk, ne_eq, not_true_eq_false, decide_false]
    refine ⟨t, rfl, .refl _ t, ?_⟩
    simpa only [hk, if_true, List.append_nil] using hout
  · have hne : s.projection.s ≠ 1 := fun h1 => hk (hs.1 h1)
    rw [if_neg hk] at hout hlen ⊢
    have hdot : chDot ∉ paddedText s.projection.fs s.places := fun hmem => by
      obtain ⟨k, hsucc⟩ := Nat.exists_eq_succ_of_ne_zero hk
      rw [hsucc] at hmem
      exact absurd (isDigit_of_mem_paddedText hmem) (by decide)
    obtain ⟨text, u, hcanon, hcleared, htext, rfl⟩ := canon_of_outIs hout hlen hdot
    rw [decide_eq_true hne, if_neg hk]
    exact ⟨u, hcanon, hcleared, htext⟩

/-- FMT writes the projection, the length of the minimal text, and in OUT that text and 0x00 up to the first terminator. -/
theorem doFmt_spec {s : State} (hwf : s.params.wf = true) :
    doFmt s =
      { writeProjection s s.projection with
        len := BitVec.ofNat 32 s.fmtText.length, outptr := BitVec.ofNat 32 s.fmtText.length, mem := (doFmt s).mem } ∧
    OutIs (doFmt s) s.fmtText ∧
    (∀ j, s.fmtText.length ≤ j → j ≤ (rawText s.projection).length → (doFmt s).outAt j = chNul) ∧
    (∀ a, a < outBase ∨ outBase + (rawText s.projection).length < a → (doFmt s).byteAt a = s.byteAt a) ∧
    s.fmtText.length ≤ (rawText s.projection).length := by
  have hraw := length_rawText_le s
  have hbounds : 16 ≤ s.params.outLen ∧ s.params.outLen ≤ 256 := by
    simp only [Params.wf, Bool.and_eq_true, decide_eq_true_eq] at hwf
    omega
  obtain ⟨hframe, hout, hother⟩ :=
    outBytes_of_fits (s := writeProjection s s.projection) (bs := rawText s.projection) (by dsimp [writeProjection]; omega)
      (by dsimp [writeProjection]; omega)
  have hparams : ((writeProjection s s.projection).outBytes 0 (rawText s.projection)).params = s.params := by
    rw [hframe]
    rfl
  generalize hrun : (writeProjection s s.projection).outBytes 0 (rawText s.projection) = u at hframe hout hother hparams
  have hterm : Cleared (rawText s.projection).length ((rawText s.projection).length + 1) u
      (u.outByte (rawText s.projection).length chNul) := .single (by rw [hparams]; omega)
  obtain ⟨t, hcanon, hcleared, htext⟩ :=
    canon_rawText (hterm.outIs hout List.prefix_rfl) (by rw [hterm.params, hparams]; omega)
  have hle : s.fmtText.length ≤ (rawText s.projection).length := by
    have hcut := (canon_eq (rawText s.projection).length (decide (s.projection.s ≠ 1))
      (u.outByte (rawText s.projection).length chNul)).1
    rwa [hcanon] at hcut
  have hall := hterm.trans hle (Nat.le_succ _) hcleared
  have hfmt : doFmt s =
      { t with len := BitVec.ofNat 32 s.fmtText.length, outptr := BitVec.ofNat 32 s.fmtText.length } := by
    dsimp only [doFmt]
    rw [hrun, hcanon]
  rw [hfmt]
  refine ⟨?_, htext, fun j hj hjle => hall.zero j hj (Nat.lt_succ_of_le hjle), fun a ha => ?_, hle⟩
  · have hmem := hall.frame
    rw [hframe] at hmem
    rw [hmem]
  · exact (hall.other a (by omega)).trans (hother a (by omega))

/-- LEN holds the length of the text without a wrap. -/
theorem toNat_len_doFmt {s : State} (hwf : s.params.wf = true) : (doFmt s).len.toNat = s.fmtText.length := by
  obtain ⟨hframe, -, -, -, hle⟩ := doFmt_spec hwf
  have hraw := length_rawText_le s
  rw [hframe]
  exact (BitVec.toNat_ofNat ..).trans (Nat.mod_eq_of_lt (by omega))

/-- Settles O38: the text of `doFmt_spec`, read off the registers that FPROJ writes. -/
theorem fmtWritesCanonicalText : Obligations.FmtWritesCanonicalText := by
  unfold Obligations.FmtWritesCanonicalText
  intro s hwf
  obtain ⟨hframe, hout, hzero, hother, -⟩ := doFmt_spec hwf
  obtain ⟨hint, hffrac, -⟩ := toNat_writeProjection_projection s
  have hsign : ((writeProjection s s.projection).fsign == 1#32) = s.projection.neg := by
    cases hneg : s.projection.neg <;> simp [writeProjection, hneg]
  have hlen : (doFmt s).len = BitVec.ofNat 32 s.fmtText.length := congrArg State.len hframe
  refine ⟨doFmt s, writeProjection s s.projection, rfl, rfl, ?frame, ?text⟩
  case frame =>
    rw [hlen]
    exact hframe
  case text =>
    simp only [hsign, hint, hffrac, toNat_fsign_writeProjection]
    rw [length_rawText] at hzero hother
    exact ⟨toNat_len_doFmt hwf, hout, hzero, hother⟩

/-! ### Properties of the text (R78) -/

theorem headText_ne_nil (neg : Bool) (ip : Nat) : headText neg ip ≠ [] := by
  simp [headText, decimalText_ne_nil]

/-- The head is the '-' of a negative value and digits. -/
theorem mem_headText {neg : Bool} {ip : Nat} {c : Byte} (h : c ∈ headText neg ip) : c = chMinus ∨ isDigit c = true := by
  obtain hsign | hdigit := List.mem_append.1 h
  · cases neg with
    | false => exact absurd hsign List.not_mem_nil
    | true => exact .inl (List.mem_singleton.1 hsign)
  · exact .inr (isDigit_of_mem_decimalText hdigit)

theorem dot_notMem_headText (neg : Bool) (ip : Nat) : chDot ∉ headText neg ip := fun h =>
  (mem_headText h).elim (by decide) (by decide)

/-- The head begins with '-' exactly for a negative value. -/
theorem head_headText_eq_minus_iff (neg : Bool) (ip : Nat) :
    (headText neg ip).head (headText_ne_nil neg ip) = chMinus ↔ neg = true := by
  cases neg with
  | true => exact ⟨fun _ => rfl, fun _ => rfl⟩
  | false =>
    have hdigit := isDigit_of_mem_decimalText (List.head_mem (decimalText_ne_nil ip))
    exact ⟨fun h => absurd h (ne_sign_of_isDigit hdigit).2, nofun⟩

theorem isDigit_of_mem_fracText {f k : Nat} {c : Byte} (h : c ∈ fracText f k) : isDigit c = true := by
  cases k with
  | zero => exact absurd h List.not_mem_nil
  | succ k => exact isDigit_of_mem_paddedText ((List.rdropWhile_prefix ..).subset h)

/-- The fraction of the minimal text does not end in '0'. -/
theorem getLast_fracText_ne_zero {f k : Nat} (hne : fracText f k ≠ []) : (fracText f k).getLast hne ≠ chZero := by
  cases k with
  | zero => exact absurd rfl hne
  | succ k =>
    have hlast := List.rdropWhile_last_not (· == chZero) (paddedText f (k + 1)) hne
    exact fun h => hlast (beq_iff_eq.2 h)

/-- The minimal text is the head alone, or the head, a '.' and a fraction that does not end in '0'. -/
theorem fmtText_cases (s : State) :
    s.fmtText = headText s.projection.neg s.projection.ip ∨
    s.places ≠ 0 ∧ ∃ frac, ∃ hne : frac ≠ [], s.fmtText = headText s.projection.neg s.projection.ip ++ chDot :: frac ∧
      isDigit (frac.getLast hne) = true ∧ frac.getLast hne ≠ chZero := by
  rw [State.fmtText, canonicalText_eq]
  by_cases hne : fracText s.projection.fs s.places = []
  · exact .inl (by rw [if_pos hne, List.append_nil])
  · refine .inr ⟨fun hk => hne (by rw [fracText, if_pos hk]), _, hne, by rw [if_neg hne], ?_, getLast_fracText_ne_zero hne⟩
    exact isDigit_of_mem_fracText (List.getLast_mem hne)

/-- The first byte of a text that OUT begins with. -/
theorem OutIs.first {s : State} {bs : List Byte} (h : OutIs s bs) (hne : bs ≠ []) : s.outAt 0 = bs.head hne :=
  h _ _ (by rw [← List.head?_eq_getElem?, List.head?_eq_some_head hne])

/-- A byte below the text's length is a byte of the text. -/
theorem OutIs.mem {s : State} {bs : List Byte} (h : OutIs s bs) {j : Nat} (hj : j < bs.length) : s.outAt j ∈ bs :=
  h j _ (List.getElem?_eq_getElem hj) ▸ List.getElem_mem hj

/-- The properties of R78, of OUT that begins with the minimal text. -/
theorem outIs_fmtText_properties {s t : State} (hout : OutIs t s.fmtText) :
    (t.outAt 0 = chMinus ↔ s.projection.neg = true) ∧
    (s.places = 0 → ∀ j, j < s.fmtText.length → t.outAt j ≠ chDot) ∧ 1 ≤ s.fmtText.length ∧
    t.outAt (s.fmtText.length - 1) ≠ chDot ∧
    ((∃ j, j < s.fmtText.length ∧ t.outAt j = chDot) → t.outAt (s.fmtText.length - 1) ≠ chZero) := by
  have hnil := headText_ne_nil s.projection.neg s.projection.ip
  have hdot := dot_notMem_headText s.projection.neg s.projection.ip
  obtain htext | ⟨hk, frac, hne, htext, hdigit, hlast⟩ := fmtText_cases s
  · rw [htext] at hout ⊢
    have hnodot : ∀ j, j < (headText s.projection.neg s.projection.ip).length → t.outAt j ≠ chDot :=
      fun j hj h => hdot (h ▸ hout.mem hj)
    have hpos := List.length_pos_of_ne_nil hnil
    refine ⟨?_, fun _ => hnodot, hpos, hnodot _ (Nat.sub_lt hpos Nat.one_pos), fun ⟨j, hj, h⟩ => absurd h (hnodot j hj)⟩
    rw [hout.first hnil, head_headText_eq_minus_iff]
  · rw [htext] at hout ⊢
    have hend : t.outAt ((headText s.projection.neg s.projection.ip ++ chDot :: frac).length - 1) = frac.getLast hne := by
      rw [hout.last (by simp), List.getLast_append_of_ne_nil _ (List.cons_ne_nil _ _), List.getLast_cons hne]
    refine ⟨?_, fun hk0 => absurd hk0 hk, by simp; omega, ?_, fun _ => by rwa [hend]⟩
    · rw [hout.first (by simp), List.head_append_left hnil, head_headText_eq_minus_iff]
    · rw [hend]
      rintro h
      rw [h] at hdigit
      exact absurd hdigit (by decide)

/-- Settles O39: the properties are those of the minimal text, which OUT begins with. -/
theorem fmtTextProperties : Obligations.FmtTextProperties := by
  unfold Obligations.FmtTextProperties
  intro s hwf
  obtain ⟨hframe, hout, hzero, -, hle⟩ := doFmt_spec hwf
  obtain ⟨hminus, hnodot, hpos, hend, hlast⟩ := outIs_fmtText_properties hout
  have hlen := toNat_len_doFmt hwf
  have hstatus : (doFmt s).status = s.status := by rw [hframe]; rfl
  have hsign : s.projection.neg = true ↔ s.value.toInt < 0 := by rw [State.projection, project_neg, getLsbD_31_iff]
  refine ⟨doFmt s, rfl, hminus.trans hsign, fun hk => ?_, ?_⟩
  · rw [hlen]
    exact hnodot (by rw [State.places, hk]; rfl)
  · rw [hlen]
    exact ⟨hpos, hle.trans (length_rawText_le s), hzero _ le_rfl hle, hend, hlast, hstatus⟩

end Sys2Proof.Machine
end

section
/-! What a command's Exec can touch and what it depends on (R43, R67): one frame for all commands, independence of the port
side (R101), and independence of bytes that are not the command's own. -/

namespace Sys2Proof.Machine

/-! ### Output bytes step by step -/

section
variable {P : State → Prop} (hbyte : ∀ s i b, P s → P (s.outByte i b))
include hbyte

/-- What every output byte keeps, a run of output bytes keeps. -/
theorem outBytes_keeps {s : State} (h : P s) (i : Nat) (bs : List Byte) : P (s.outBytes i bs) := by
  induction bs generalizing s i with
  | nil => exact h
  | cons b bs ih => exact ih (hbyte s _ b h) (i + 1)

/-- What every output byte keeps, the strip loop keeps. -/
theorem stripZeros_keeps {s : State} (h : P s) (n : Nat) : P (stripZeros n s).2 := by
  induction n generalizing s with
  | zero => exact h
  | succ n ih =>
    unfold stripZeros
    split
    · exact ih (hbyte s n chNul h)
    · exact h

/-- What every output byte keeps, `Canon` keeps. -/
theorem canon_keeps {s : State} (h : P s) (n : Nat) (dot : Bool) : P (canon n dot s).2 := by
  unfold canon
  split
  · dsimp only
    split
    · exact hbyte _ _ _ (stripZeros_keeps hbyte h n)
    · exact stripZeros_keeps hbyte h n
  · exact h

/-- What FMT does, whatever OUT_LEN is: output bytes after the projection, then LEN and OUTPTR, at most 12. -/
theorem doFmt_keeps {s : State} (h : P (writeProjection s s.projection)) :
    ∃ n t, n ≤ 12 ∧ P t ∧ doFmt s = { t with len := BitVec.ofNat 32 n, outptr := BitVec.ofNat 32 n } :=
  ⟨_, _, ((canon_eq ..).1).trans (length_rawText_le s),
    canon_keeps hbyte (hbyte _ _ chNul (outBytes_keeps hbyte h 0 (rawText s.projection))) _ _, rfl⟩

end

/-! ### The frame of a command -/

/-- What no command changes: CTRL, the operand registers, the parameters, the port side but STATUS, and every byte outside
OUT (R43). -/
structure Untouched (s t : State) : Prop where
  ctrl : t.ctrl = s.ctrl
  value : t.value = s.value
  digits : t.digits = s.digits
  evalReg : t.evalReg = s.evalReg
  pstart : t.pstart = s.pstart
  inFlight : t.inFlight = s.inFlight
  params : t.params = s.params
  inbox : t.inbox = s.inbox
  responses : t.responses = s.responses
  draws : t.draws = s.draws
  resets : t.resets = s.resets
  other : ∀ a, inOut s.params a = false → t.byteAt a = s.byteAt a

namespace Untouched

variable {s t u : State}

theorem refl (s : State) : Untouched s s := ⟨rfl, rfl, rfl, rfl, rfl, rfl, rfl, rfl, rfl, rfl, rfl, fun _ _ => rfl⟩

theorem trans (hst : Untouched s t) (htu : Untouched t u) : Untouched s u where
  ctrl := htu.ctrl.trans hst.ctrl
  value := htu.value.trans hst.value
  digits := htu.digits.trans hst.digits
  evalReg := htu.evalReg.trans hst.evalReg
  pstart := htu.pstart.trans hst.pstart
  inFlight := htu.inFlight.trans hst.inFlight
  params := htu.params.trans hst.params
  inbox := htu.inbox.trans hst.inbox
  responses := htu.responses.trans hst.responses
  draws := htu.draws.trans hst.draws
  resets := htu.resets.trans hst.resets
  other a ha := (htu.other a (by rwa [hst.params])).trans (hst.other a ha)

theorem raise (s : State) (f : Flag) : Untouched s (s.raise f) :=
  ⟨rfl, rfl, rfl, rfl, rfl, rfl, rfl, rfl, rfl, rfl, rfl, fun _ _ => rfl⟩

theorem setAcc (s : State) (v : Wide) : Untouched s (s.setAcc v) :=
  ⟨rfl, rfl, rfl, rfl, rfl, rfl, rfl, rfl, rfl, rfl, rfl, fun _ _ => rfl⟩

theorem outByte (s : State) (i : Nat) (b : Byte) : Untouched s (s.outByte i b) := by
  obtain ⟨hi, heq⟩ | ⟨-, heq⟩ := s.outByte_cases i b
  · rw [heq]
    refine ⟨rfl, rfl, rfl, rfl, rfl, rfl, rfl, rfl, rfl, rfl, rfl, fun a ha => State.byteAt_writeByte_other s b ?_⟩
    rintro rfl
    have hin : inOut s.params (outBase + i) = true := (inOut_iff ..).2 ⟨Nat.le_add_right .., Nat.add_lt_add_left hi _⟩
    exact absurd (hin.symm.trans ha) (by decide)
  · rw [heq]
    exact raise s _

theorem doEmit (e : Nat) (skip : Bool) (s : State) : Untouched s (doEmit e skip s) := by
  have hrun : Untouched s (s.outBytes s.outptr.toNat (emitDigits s.evalReg.toNat e skip).1) :=
    outBytes_keeps (fun t i b ht => ht.trans (outByte t i b)) (refl s) _ _
  rw [doEmit_eq]
  rw [State.outBytes_eq] at hrun
  exact ⟨rfl, rfl, rfl, rfl, rfl, rfl, rfl, rfl, rfl, rfl, rfl, hrun.other⟩

theorem doFmt (s : State) : Untouched s (doFmt s) := by
  have hprojection : Untouched s (writeProjection s s.projection) :=
    ⟨rfl, rfl, rfl, rfl, rfl, rfl, rfl, rfl, rfl, rfl, rfl, fun _ _ => rfl⟩
  obtain ⟨n, t, -, ht, heq⟩ := doFmt_keeps (fun t i b ht => ht.trans (outByte t i b)) hprojection
  rw [heq]
  exact ht.trans ⟨rfl, rfl, rfl, rfl, rfl, rfl, rfl, rfl, rfl, rfl, rfl, fun _ _ => rfl⟩

end Untouched

/-- PARSE leaves a `finish`. -/
theorem doParse_eq_finish (ae sh : Bool) (s : State) : ∃ sg w p v, doParse ae sh s = finish sg s w p v := by
  obtain ⟨sg, j, w, v, -, -, hparse, -⟩ := doParse_of_sameText (s := s) (s' := s) ⟨rfl, fun _ => rfl⟩ ae sh
  exact ⟨sg, w, _, v, hparse⟩

/-- A command other than EMIT and FMT writes no byte. -/
theorem mem_of_exec {i : Instr} {s t : State} (hemit : ∀ e k, i ≠ .emit e k) (hfmt : i ≠ .fmt)
    (hexec : exec i s = .next t) : t.mem = s.mem := by
  cases i with
  | emit e skip => exact absurd rfl (hemit e skip)
  | fmt => exact absurd rfl hfmt
  | pfdig d =>
    obtain rfl := Host.Outcome.next.inj hexec
    rw [doPfdig_eq]
  | pfcomb =>
    obtain rfl := Host.Outcome.next.inj hexec
    obtain ⟨-, heq⟩ | ⟨-, heq⟩ := doPfcomb_cases s
    · rw [heq, State.raise_mem]
    · rw [heq, State.setAcc_mem]
  | parse ae sh =>
    obtain rfl := Host.Outcome.next.inj hexec
    obtain ⟨sg, w, p, v, hparse⟩ := doParse_eq_finish ae sh s
    rw [hparse]
    rfl
  | _ =>
    obtain rfl := Host.Outcome.next.inj hexec
    rfl

/-- Every command answers a next state, within its frame. -/
theorem exec_untouched (i : Instr) (s : State) : ∃ t, exec i s = .next t ∧ Untouched s t := by
  cases i with
  | emit e skip => exact ⟨_, rfl, .doEmit _ skip s⟩
  | fmt => exact ⟨_, rfl, .doFmt s⟩
  | pfdig d =>
    refine ⟨_, rfl, ?_⟩
    rw [doPfdig_eq]
    exact ⟨rfl, rfl, rfl, rfl, rfl, rfl, rfl, rfl, rfl, rfl, rfl, fun _ _ => rfl⟩
  | pfcomb =>
    refine ⟨_, rfl, ?_⟩
    obtain ⟨-, heq⟩ | ⟨-, heq⟩ := doPfcomb_cases s <;> rw [heq]
    · exact .raise s _
    · exact .setAcc s _
  | parse ae sh =>
    obtain ⟨sg, w, p, v, hparse⟩ := doParse_eq_finish ae sh s
    exact ⟨_, congrArg Host.Outcome.next hparse,
      rfl, rfl, rfl, rfl, rfl, rfl, rfl, rfl, rfl, rfl, rfl, fun _ _ => rfl⟩
  | _ => exact ⟨_, rfl, rfl, rfl, rfl, rfl, rfl, rfl, rfl, rfl, rfl, rfl, rfl, fun _ _ => rfl⟩

theorem untouched_of_exec {i : Instr} {s t : State} (hexec : exec i s = .next t) : Untouched s t := by
  obtain ⟨u, hu, huntouched⟩ := exec_untouched i s
  obtain rfl := Host.Outcome.next.inj (hu.symm.trans hexec)
  exact huntouched

/-- Settles O29: the frame of all commands, and the commands that write no byte. -/
theorem commandsWriteOnlyTheirOwn : Obligations.CommandsWriteOnlyTheirOwn := by
  unfold Obligations.CommandsWriteOnlyTheirOwn
  intro i s t hexec
  obtain ⟨hctrl, hvalue, hdigits, heval, hpstart, hflight, -, hinbox, hresp, hdraws, hresets, hother⟩ :=
    untouched_of_exec hexec
  exact ⟨fun hemit hfmt => mem_of_exec hemit hfmt hexec, hother, hctrl, hvalue, hdigits, heval, hpstart, hflight, hinbox,
    hresp, hdraws, hresets⟩

/-! ### Independence of the port side (R101) -/

/-- `s` with the port side of `c`, and the flags of both. -/
def overlay (c s : State) : State :=
  { s with
    status := s.status ||| c.status, inFlight := c.inFlight, inbox := c.inbox, responses := c.responses
    draws := c.draws }

section
variable (c s : State)

theorem raise_overlay (f : Flag) : (overlay c s).raise f = overlay c (s.raise f) := by
  have hset : setFlag (s.status ||| c.status) f = setFlag s.status f ||| c.status := by
    rw [setFlag, setFlag, BitVec.or_assoc, BitVec.or_comm c.status, ← BitVec.or_assoc]
  rw [State.raise, overlay, hset]
  rfl

theorem setAcc_overlay (v : Wide) : (overlay c s).setAcc v = overlay c (s.setAcc v) := rfl

theorem outByte_overlay (i : Nat) (b : Byte) : (overlay c s).outByte i b = overlay c (s.outByte i b) := by
  have hparams : (overlay c s).params = s.params := rfl
  unfold State.outByte
  rw [hparams]
  split
  · rfl
  · exact raise_overlay c s _

theorem outBytes_overlay (i : Nat) (bs : List Byte) : (overlay c s).outBytes i bs = overlay c (s.outBytes i bs) := by
  induction bs generalizing s i with
  | nil => rfl
  | cons b bs ih => rw [State.outBytes, outByte_overlay, ih, State.outBytes]

theorem stripZeros_overlay (n : Nat) :
    stripZeros n (overlay c s) = ((stripZeros n s).1, overlay c (stripZeros n s).2) := by
  induction n generalizing s with
  | zero => rfl
  | succ n ih =>
    have hout : (overlay c s).outAt n = s.outAt n := rfl
    rw [stripZeros, stripZeros, hout]
    split
    · rw [outByte_overlay, ih]
    · rfl

theorem canon_overlay (n : Nat) (dot : Bool) :
    canon n dot (overlay c s) = ((canon n dot s).1, overlay c (canon n dot s).2) := by
  have hout (t : State) (j : Nat) : (overlay c t).outAt j = t.outAt j := rfl
  unfold canon
  split
  · rw [stripZeros_overlay]
    dsimp only
    rw [hout, outByte_overlay]
    split <;> rfl
  · rfl

theorem doEmit_overlay (e : Nat) (skip : Bool) : doEmit e skip (overlay c s) = overlay c (doEmit e skip s) := by
  have heval : (overlay c s).evalReg = s.evalReg := rfl
  have houtptr : (overlay c s).outptr = s.outptr := rfl
  dsimp only [doEmit]
  rw [heval, houtptr, outBytes_overlay]
  split
  · rw [← raise_overlay]
    rfl
  · rfl

theorem doFmt_overlay : doFmt (overlay c s) = overlay c (doFmt s) := by
  have hprojection : (overlay c s).projection = s.projection := rfl
  have hwrite (p : Projection) : writeProjection (overlay c s) p = overlay c (writeProjection s p) := rfl
  dsimp only [doFmt]
  rw [hprojection, hwrite, outBytes_overlay, outByte_overlay, canon_overlay]
  rfl

theorem doPfdig_overlay (d : Nat) : doPfdig d (overlay c s) = overlay c (doPfdig d s) := by
  obtain hlt | hge := Nat.lt_or_ge s.fscl.toNat 100000000
  · rw [doPfdig_of_lt d hlt]
    exact doPfdig_of_lt (s := overlay c s) d hlt
  · rw [doPfdig_of_ge d hge]
    exact doPfdig_of_ge (s := overlay c s) d hge

theorem doPfcomb_of_zero {s : State} (hzero : s.fscl.toNat = 0) : doPfcomb s = s.raise .dz := if_pos hzero

theorem doPfcomb_overlay : doPfcomb (overlay c s) = overlay c (doPfcomb s) := by
  obtain hzero | hpos := Nat.eq_zero_or_pos s.fscl.toNat
  · rw [doPfcomb_of_zero hzero, ← raise_overlay]
    exact doPfcomb_of_zero (s := overlay c s) hzero
  · have hpos' : 0 < (overlay c s).fscl.toNat := hpos
    have hratio : addRatio (overlay c s).acc (overlay c s).fval (overlay c s).fscl = addRatio s.acc s.fval s.fscl := rfl
    rw [doPfcomb_of_pos hpos, doPfcomb_of_pos hpos', hratio, setAcc_overlay]

theorem doParse_overlay (ae sh : Bool) : doParse ae sh (overlay c s) = overlay c (doParse ae sh s) := by
  obtain ⟨sg, j, w, v, -, -, hparse, hparse'⟩ :=
    doParse_of_sameText (s := s) (s' := overlay c s) ⟨rfl, fun _ => textAt_congr rfl rfl rfl _⟩ ae sh
  rw [hparse, hparse']
  rfl

end

/-- Exec computes the same under any port side. -/
theorem exec_overlay {i : Instr} {s t : State} (c : State) (hexec : exec i s = .next t) :
    exec i (overlay c s) = .next (overlay c t) := by
  cases i <;> obtain rfl := Host.Outcome.next.inj hexec
  case emit e skip => exact congrArg Host.Outcome.next (doEmit_overlay c s _ skip)
  case fmt => exact congrArg Host.Outcome.next (doFmt_overlay c s)
  case pfdig d => exact congrArg Host.Outcome.next (doPfdig_overlay c s _)
  case pfcomb => exact congrArg Host.Outcome.next (doPfcomb_overlay c s)
  case parse ae sh => exact congrArg Host.Outcome.next (doParse_overlay c s ae sh)
  all_goals rfl

/-- A state is its port side laid over what is left of it. -/
theorem overlay_of_sameButPort {s s' : State} (h : SameButPort s s') : s' = overlay s' { s with status := 0 } := by
  have hstatus : 0 ||| s'.status = s'.status := BitVec.zero_or
  rw [overlay, hstatus]
  exact h

/-- Settles O10: both states are port sides laid over the same rest, on which Exec computes. -/
theorem execIgnoresThePort : Obligations.ExecIgnoresThePort := by
  unfold Obligations.ExecIgnoresThePort
  intro i s s' hsame
  obtain ⟨u, hu, -⟩ := exec_untouched i { s with status := 0 }
  have hexec := exec_overlay s hu
  have hexec' := exec_overlay s' hu
  rw [← overlay_of_sameButPort hsame] at hexec'
  rw [← overlay_of_sameButPort (s := s) (s' := s) rfl] at hexec
  have hbit (c : State) (k : Nat) : (overlay c u).status.getLsbD k = (u.status.getLsbD k || c.status.getLsbD k) :=
    BitVec.getLsbD_or
  refine ⟨_, _, hexec, hexec', rfl, rfl, rfl, rfl, rfl, fun k hk => ?_, fun k hclear hset => ?_⟩
  · rw [hbit, hbit, hk]
  · rw [hbit, hclear, Bool.or_false] at hset
    rw [hbit, hset, Bool.true_or]

/-! ### Independence of foreign bytes (R43, R67) -/

/-- The state with other buffer bytes. -/
def State.withMem (s : State) (m : Memory) : State := { s with mem := m }

section
variable (s : State) (m : Memory)

/-- The flags of EMIT are those of its digits and indices, not of bytes. -/
theorem status_doEmit_withMem (e : Nat) (skip : Bool) : (doEmit e skip (s.withMem m)).status = (doEmit e skip s).status :=
  BitVec.eq_of_getLsbD_eq fun k _ => Bool.eq_iff_iff.2
    ((getLsbD_status_doEmit e skip (s.withMem m) k).trans (getLsbD_status_doEmit e skip s k).symm)

theorem doEmit_withMem (e : Nat) (skip : Bool) :
    doEmit e skip (s.withMem m) = (doEmit e skip s).withMem (doEmit e skip (s.withMem m)).mem := by
  rw [doEmit_eq, status_doEmit_withMem]
  nth_rw 2 [doEmit_eq]
  rfl

/-- The registers of FMT are those of the projection and its text. -/
theorem doFmt_withMem (hwf : s.params.wf = true) :
    doFmt (s.withMem m) = (doFmt s).withMem (doFmt (s.withMem m)).mem := by
  rw [(doFmt_spec hwf).1]
  exact (doFmt_spec (s := s.withMem m) hwf).1

theorem doPfdig_withMem (d : Nat) : doPfdig d (s.withMem m) = (doPfdig d s).withMem m := by
  obtain hlt | hge := Nat.lt_or_ge s.fscl.toNat 100000000
  · rw [doPfdig_of_lt d hlt]
    exact doPfdig_of_lt (s := s.withMem m) d hlt
  · rw [doPfdig_of_ge d hge]
    exact doPfdig_of_ge (s := s.withMem m) d hge

theorem setAcc_withMem (v : Wide) : (s.withMem m).setAcc v = (s.setAcc v).withMem m := rfl

theorem doPfcomb_withMem : doPfcomb (s.withMem m) = (doPfcomb s).withMem m := by
  obtain hzero | hpos := Nat.eq_zero_or_pos s.fscl.toNat
  · rw [doPfcomb_of_zero hzero]
    exact doPfcomb_of_zero (s := s.withMem m) hzero
  · have hpos' : 0 < (s.withMem m).fscl.toNat := hpos
    have hratio : addRatio (s.withMem m).acc (s.withMem m).fval (s.withMem m).fscl = addRatio s.acc s.fval s.fscl := rfl
    rw [doPfcomb_of_pos hpos, doPfcomb_of_pos hpos', hratio, setAcc_withMem]

theorem doParse_withMem (ae sh : Bool) (htext : ∀ j, (s.withMem m).textAt j = s.textAt j) :
    doParse ae sh (s.withMem m) = (doParse ae sh s).withMem m := by
  obtain ⟨sg, j, w, v, -, -, hparse, hparse'⟩ :=
    doParse_of_sameText (s := s) (s' := s.withMem m) ⟨rfl, fun _ => htext _⟩ ae sh
  rw [hparse, hparse']
  rfl

end

/-- Settles O30: only EMIT and FMT write bytes, and neither their registers nor those of the others come from bytes, but
for the text that PARSE reads. -/
theorem execReadsNoForeignBytes : Obligations.ExecReadsNoForeignBytes := by
  unfold Obligations.ExecReadsNoForeignBytes
  intro i s m hwf htext
  have hframe (t t' : State) (m' : Memory) (h : t' = t.withMem m') : t' = { t with mem := t'.mem } := by
    rw [h]
    rfl
  cases i with
  | emit e skip => exact ⟨_, _, rfl, rfl, doEmit_withMem s m _ skip⟩
  | fmt => exact ⟨_, _, rfl, rfl, doFmt_withMem s m hwf⟩
  | pfdig d => exact ⟨_, _, rfl, rfl, hframe _ _ m (doPfdig_withMem s m _)⟩
  | pfcomb => exact ⟨_, _, rfl, rfl, hframe _ _ m (doPfcomb_withMem s m)⟩
  | parse ae sh => exact ⟨_, _, rfl, rfl, hframe _ _ m (doParse_withMem s m ae sh (htext ⟨ae, sh, rfl⟩))⟩
  | _ => exact ⟨_, _, rfl, rfl, rfl⟩

end Sys2Proof.Machine
end

section
/-! The host port by address (R8, R16, R43, R44): the window at BASE and what an offset names; and the effect of a host's write of
STATUS (R19), of a buffer word (R46) and of a reset (R113). -/

namespace Sys2Proof.Machine

/-! ### The window at BASE (R8, R43) -/

/-- Settles O13: inside the window the offset is the distance from BASE, which 12 bits hold. -/
theorem windowAtBase : Obligations.WindowAtBase := by
  unfold Obligations.WindowAtBase
  refine ⟨Nat.mul_mod_right .., fun off => ?offset, fun a off h => ?address, fun a ha => if_neg (by omega)⟩
  case offset =>
    have hoff : Config.base + off.toNat - Config.base = off.toNat := Nat.add_sub_cancel_left ..
    rw [windowOffset, if_pos ⟨Nat.le_add_right .., Nat.add_lt_add_left off.isLt _⟩, hoff, BitVec.ofNat_toNat,
      BitVec.setWidth_eq]
  case address =>
    unfold windowOffset at h
    split at h
    · next hin =>
      obtain rfl := Option.some.inj h
      rw [BitVec.toNat_ofNat, Nat.mod_eq_of_lt (by omega)]
      omega
    · cases h

/-! ### What an offset names (R16, R44) -/

theorem mem_regAll (r : Reg) : r ∈ Reg.all := by
  cases r with
  | scaleTbl k => fin_cases k <;> decide
  | _ => decide

/-- The rows of R16 are the registers with their offsets. -/
theorem registerMap_eq : registerMap = Reg.all.map (fun r => (r, r.offset)) := rfl

theorem mem_registerMap_iff (r : Reg) (a : Nat) : (r, a) ∈ registerMap ↔ r.offset = a := by
  rw [registerMap_eq, List.mem_map]
  constructor
  · rintro ⟨g, -, hg⟩
    obtain ⟨rfl, rfl⟩ := Prod.mk.inj hg
    rfl
  · rintro rfl
    exact ⟨r, mem_regAll r, rfl⟩

/-- No two registers share an offset, since an offset names one thing. -/
theorem offset_injective {r q : Reg} (h : r.offset = q.offset) : r = q := by
  have hr := targetOf_regOffset Params.default r
  rw [h, targetOf_regOffset] at hr
  exact (Target.reg.inj (Option.some.inj hr)).symm

/-- Settles O14, from the lemmas about `targetOf` and the rows of R16. -/
theorem addressMap : Obligations.AddressMap := by
  unfold Obligations.AddressMap
  exact ⟨isSome_targetOf_iff, targetOf_regOffset, mem_registerMap_iff, rfl, fun _ _ => offset_injective,
    fun _ _ => targetOf_of_legal_ge⟩

/-! ### STATUS (R19) -/

/-- Settles O19: the write leaves `w1cWrite`, known bit by bit. -/
theorem statusWriteClearsWrittenBits : Obligations.StatusWriteClearsWrittenBits := by
  unfold Obligations.StatusWriteClearsWrittenBits
  intro s v rest hnone hidle hin
  exact ⟨_, step_write_reg_of_idle (g := .status) hnone hidle hin, getLsbD_w1cWrite s.status v⟩

/-! ### Buffer words (R46) -/

namespace State

/-- Byte k of a stored word. -/
theorem byteAt_storeWord (s : State) (a : Nat) (v : Word) {k : Nat} (hk : k < 4) :
    (s.storeWord a v).byteAt (a + k) = v.extractLsb' (8 * k) 8 := by
  have hskip (t : State) {i j : Nat} (b : Byte) (h : i ≠ j) : (t.writeByte (a + j) b).byteAt (a + i) = t.byteAt (a + i) :=
    byteAt_writeByte_other t b (by omega)
  unfold storeWord
  interval_cases k
  · rw [hskip _ _ (by decide), hskip _ _ (by decide), hskip _ _ (by decide)]
    exact byteAt_writeByte_same ..
  · rw [hskip _ _ (by decide), hskip _ _ (by decide)]
    exact byteAt_writeByte_same ..
  · rw [hskip _ _ (by decide)]
    exact byteAt_writeByte_same ..
  · exact byteAt_writeByte_same ..

/-- A store does not depend on what the host does next. -/
theorem storeWord_withInbox (s : State) (ops : List HostOp) (a : Nat) (v : Word) :
    ({ s with inbox := ops } : State).storeWord a v = { s.storeWord a v with inbox := ops } := rfl

/-- A loaded word is the one with its four bytes. -/
theorem loadWord_of_bytes {s : State} {a : Nat} {v : Word} (h : ∀ k < 4, s.byteAt (a + k) = v.extractLsb' (8 * k) 8) :
    s.loadWord a = v := by
  refine BitVec.eq_of_getLsbD_eq fun i hi => ?_
  have hk : i / 8 < 4 := by omega
  have hbyte := congrArg (·.getLsbD (i % 8)) ((extractLsb'_loadWord s a hk).trans (h _ hk))
  simpa only [BitVec.getLsbD_extractLsb', Nat.div_add_mod, Nat.mod_lt, Nat.zero_lt_succ, decide_true, Bool.true_and]
    using hbyte

/-- A full write at a buffer's offset while idle stores the word (R42). -/
theorem hostWrite_buf_of_idle {s : State} {off : Offset} (hidle : s.flag .busy = false)
    (hlegal : LegalOffset s.params off.toNat) (hge : 0x100 ≤ off.toNat) (v : Word) :
    s.hostWrite off 0xF#4 v = (s.storeWord off.toNat v).respond .writeOk := by
  simp [hostWrite, targetOf_of_legal_ge hlegal hge, hidle, writeTarget]

/-- A read at a buffer's offset while idle answers the word with the four bytes there (R41). -/
theorem hostRead_buf_of_idle {s : State} {off : Offset} (hidle : s.flag .busy = false)
    (hlegal : LegalOffset s.params off.toNat) (hge : 0x100 ≤ off.toNat) {v : Word}
    (hbytes : ∀ k < 4, s.byteAt (off.toNat + k) = v.extractLsb' (8 * k) 8) :
    s.hostRead off = s.respond (.readOk v) := by
  simp [hostRead, targetOf_of_legal_ge hlegal hge, hidle, readTarget, loadWord_of_bytes hbytes]

end State

/-- The step in which the host acts on an FXDP with nothing latched. -/
theorem step_hostOp_of_none {s : State} {op : HostOp} {rest : List HostOp} (hnone : s.inFlight = none)
    (hin : s.inbox = op :: rest) : step s = .next (({ s with inbox := rest } : State).hostOp op) := by
  have htick : ({ s with inbox := rest } : State).tick = { s with inbox := rest } := State.tick_of_inFlight_none hnone
  rw [step_of_not_due (State.due_of_inFlight_none hnone), hostStep_cons hin, htick]

/-- Settles O20: the write is `storeWord`, and the read that follows loads its four bytes. -/
theorem bufferWordsAreLittleEndian : Obligations.BufferWordsAreLittleEndian := by
  unfold Obligations.BufferWordsAreLittleEndian
  intro s off v rest hnone hidle hlegal hge hin
  have hbytes (k : Nat) (hk : k < 4) := s.byteAt_storeWord off.toNat v hk
  have hothers (a : Nat) (ha : a < off.toNat ∨ off.toNat + 4 ≤ a) := s.byteAt_storeWord_outside off.toNat v ha
  have hwrite := State.hostWrite_buf_of_idle (s := { s with inbox := .rd off :: rest }) hidle hlegal hge v
  rw [State.storeWord_withInbox] at hwrite
  rw [State.storeWord_eq] at hbytes hothers hwrite
  generalize (s.storeWord off.toNat v).mem = m at hbytes hothers hwrite
  refine ⟨m, (step_hostOp_of_none hnone hin).trans (congrArg _ hwrite), hbytes, hothers, ?read⟩
  case read =>
    have hread := State.hostRead_buf_of_idle (off := off)
      (s := { s with mem := m, inbox := rest, responses := .writeOk :: s.responses }) hidle hlegal hge hbytes
    refine (step_hostOp_of_none (op := .rd off) ?_ rfl).trans (congrArg _ hread)
    exact hnone

/-! ### Reset (R113) -/

/-- The register file after a reset is that of the reset state. -/
theorem State.readReg_afterReset (s : State) (r : Reg) : s.afterReset.readReg r = State.reset.readReg r := by
  cases r <;> rfl

/-- Settles O21: the step is `afterReset`. -/
theorem resetEventRestoresReset : Obligations.ResetEventRestoresReset := by
  unfold Obligations.ResetEventRestoresReset
  intro s rest hdue hin
  exact ⟨_, step_hostOp hdue hin, State.readReg_afterReset _, rfl, fun _ => rfl, rfl, rfl, rfl, rfl⟩

end Sys2Proof.Machine
end

section
/-! The command cycle (R66) and the time between commands (R112): acceptance, the due step, completion, and what the host can do
to an idle FXDP without a write or a reset. -/

namespace Sys2Proof.Machine

/-! ### Acceptance and completion (R66) -/

/-- Delivery of a legal word: CTRL takes it, DONE falls, BUSY rises and the word is latched (R66 items 1 and 3). -/
theorem State.deliver_of_legal (s : State) {w : Word} (hlegal : legalByRows w = true) (left : Nat) :
    s.deliver w left =
      { s with ctrl := w, status := setFlag (clearFlag s.status .done) .busy, inFlight := some ⟨w, left⟩ } := by
  obtain ⟨i, hi⟩ := (exists_decode_eq_ok_iff w).2 ((legalByRows_iff w).1 hlegal)
  obtain ⟨-, -, heq⟩ | ⟨e, he, -⟩ := s.deliver_cases w left
  · exact heq
  · cases hi.symm.trans he

/-- STATUS after an accepted command word: BUSY 1, DONE 0, and every other bit as it was. -/
theorem getLsbD_acceptedStatus (st : Word) (k : Nat) :
    (setFlag (clearFlag st .done) .busy).getLsbD k = ((st.getLsbD k && !decide (k = 1)) || decide (k = 0)) := by
  rw [getLsbD_setFlag, getLsbD_clearFlag]
  rfl

/-- An accepted word raises BUSY, drops DONE, and touches no other bit. -/
theorem acceptedStatus_spec (st : Word) :
    (setFlag (clearFlag st .done) .busy).getLsbD 0 = true ∧ (setFlag (clearFlag st .done) .busy).getLsbD 1 = false ∧
      SameBitsExcept (setFlag (clearFlag st .done) .busy) st [0, 1] := by
  refine ⟨?busy, ?done, fun k _ hk => ?others⟩
  case busy => rw [getLsbD_acceptedStatus, decide_eq_true rfl, Bool.or_true]
  case done =>
    rw [getLsbD_acceptedStatus, decide_eq_true rfl, Bool.not_true, Bool.and_false]
    rfl
  case others =>
    simp only [List.mem_cons, List.not_mem_nil, or_false, not_or] at hk
    rw [getLsbD_acceptedStatus, decide_eq_false hk.1, decide_eq_false hk.2, Bool.not_false, Bool.and_true, Bool.or_false]

/-- Settles O7: the step is the delivery of the word, with a drawn count. -/
theorem ctrlWriteAcceptsLegalWord : Obligations.CtrlWriteAcceptsLegalWord := by
  unfold Obligations.CtrlWriteAcceptsLegalWord
  intro s w rest hnone hidle hlegal hin
  have hwrite := step_write_reg_of_idle (g := .ctrl) hnone hidle hin
  rw [State.writeReg, State.deliver_of_legal _ hlegal] at hwrite
  exact ⟨_, hwrite, acceptedStatus_spec s.status⟩

/-- Where Exec of a due command answers, the step answers its completion. -/
theorem step_of_due_exec {s t : State} {w : Word} {i : Instr} (hflight : s.inFlight = some ⟨w, 0⟩)
    (hdecode : decode w = .ok i) (hexec : exec i s = .next t) : step s = .next t.complete := by
  rw [step_of_due hflight hdecode, hexec]
  rfl

/-- Settles O5, by `step_of_due`. -/
theorem stepRunsLatchedCommand : Obligations.StepRunsLatchedCommand := by
  unfold Obligations.StepRunsLatchedCommand
  exact fun s w i hflight hdecode => ⟨step_of_due hflight hdecode, fun t => step_of_due_exec hflight hdecode⟩

/-- Completion clears BUSY, sets DONE, and touches no other bit. -/
theorem completedStatus_spec (st : Word) :
    (completedStatus st).getLsbD 0 = false ∧ (completedStatus st).getLsbD 1 = true ∧
      SameBitsExcept (completedStatus st) st [0, 1] := by
  refine ⟨?busy, ?done, fun k _ hk => ?others⟩
  case busy =>
    rw [getLsbD_completedStatus, decide_eq_true rfl, Bool.not_true, Bool.and_false]
    rfl
  case done => rw [getLsbD_completedStatus, decide_eq_true rfl, Bool.or_true]
  case others =>
    simp only [List.mem_cons, List.not_mem_nil, or_false, not_or] at hk
    rw [getLsbD_completedStatus, decide_eq_false hk.1, decide_eq_false hk.2, Bool.not_false, Bool.and_true, Bool.or_false]

/-- Settles O6: the step is the completion of what Exec left. -/
theorem completionSetsDone : Obligations.CompletionSetsDone := by
  unfold Obligations.CompletionSetsDone
  intro s w i t hflight hdecode hexec
  exact ⟨_, step_of_due_exec hflight hdecode hexec, completedStatus_spec t.status⟩

/-! ### Between commands (R112) -/

namespace State

/-- A host read changes the transcript and the draw counter only. -/
theorem hostRead_eq (s : State) (off : Offset) :
    ∃ r d, s.hostRead off = { s with responses := r :: s.responses, draws := d } := by
  obtain ⟨-, heq⟩ | ⟨_, -, -, -, heq⟩ | ⟨_, -, -, heq⟩ := s.hostRead_cases off <;> exact ⟨_, _, heq⟩

/-- A read of STATUS answers STATUS, busy or idle (R41). -/
theorem hostRead_status (s : State) : s.hostRead (BitVec.ofNat 12 Reg.status.offset) = s.respond (.readOk s.status) := by
  simp [hostRead, readTarget, readReg]

/-- While idle a poll of WAIT is one read of STATUS, and the last (R59). -/
theorem pollStatus_of_idle {s : State} (hidle : s.flag .busy = false) : s.pollStatus = s.respond (.readOk s.status) := by
  rw [pollStatus, hostRead_status, hidle]
  rfl

/-- While busy a poll of WAIT is one read of STATUS, and WAIT stays pending (R59). -/
theorem pollStatus_of_busy {s : State} (hbusy : s.flag .busy = true) :
    s.pollStatus = { s with responses := .readOk s.status :: s.responses, inbox := .wait :: s.inbox } := by
  rw [pollStatus, hostRead_status, hbusy]
  rfl

/-- An operation that is neither a write nor a reset changes nothing of an idle FXDP but the transcript and the draws. -/
theorem hostOp_quiet {s : State} (hidle : s.flag .busy = false) (op : HostOp) :
    op = .reset ∨ (∃ off strb v, op = .wr off strb v) ∨
      ∃ rs d, s.hostOp op = { s with responses := rs, draws := d } := by
  cases op with
  | reset => exact .inl rfl
  | wr off strb v => exact .inr (.inl ⟨off, strb, v, rfl⟩)
  | rd off =>
    obtain ⟨r, d, heq⟩ := s.hostRead_eq off
    exact .inr (.inr ⟨_, d, heq⟩)
  | wait => exact .inr (.inr ⟨_, _, pollStatus_of_idle hidle⟩)
  | idle => exact .inr (.inr ⟨_, _, rfl⟩)

end State

/-- With nothing latched and nothing pending a step changes nothing. -/
theorem step_of_nothing_pending {s : State} (hnone : s.inFlight = none) (hin : s.inbox = []) : step s = .next s := by
  rw [step_of_not_due (State.due_of_inFlight_none hnone), hostStep_nil hin, State.tick_of_inFlight_none hnone]

/-- A step of an idle FXDP that changes more than the port side, or STATUS, or latches a word, is a reset or a write. -/
theorem pending_of_idle_change {s t : State} (hnone : s.inFlight = none) (hidle : s.flag .busy = false)
    (hstep : step s = .next t) (hchange : ¬ SameButPort s t ∨ t.status ≠ s.status ∨ t.inFlight ≠ none) :
    ∃ rest, s.inbox = .reset :: rest ∨ ∃ off strb v, s.inbox = .wr off strb v :: rest := by
  have hkept (ops : List HostOp) (rs : List Response) (d : Nat)
      (ht : t = { s with inbox := ops, responses := rs, draws := d }) : False := by
    subst ht
    obtain h | h | h := hchange
    · exact h rfl
    · exact h rfl
    · exact h hnone
  cases hin : s.inbox with
  | nil => exact (hkept _ _ _ (Host.Outcome.next.inj (hstep.symm.trans (step_of_nothing_pending hnone hin)))).elim
  | cons op rest =>
    have hop := Host.Outcome.next.inj (hstep.symm.trans (step_hostOp_of_none hnone hin))
    obtain rfl | ⟨off, strb, v, rfl⟩ | ⟨rs, d, heq⟩ := State.hostOp_quiet (s := { s with inbox := rest }) hidle op
    · exact ⟨rest, .inl rfl⟩
    · exact ⟨rest, .inr ⟨off, strb, v, rfl⟩⟩
    · exact (hkept rest rs d (hop.trans heq)).elim

/-- Settles O54, operation by operation. -/
theorem idleKeepsEverything : Obligations.IdleKeepsEverything := by
  unfold Obligations.IdleKeepsEverything
  intro s hnone hidle
  refine ⟨step_of_nothing_pending hnone, fun rest hin => step_hostOp_of_none hnone hin, fun off rest hin => ?read,
    fun rest hin => ?wait, fun t => pending_of_idle_change hnone hidle⟩
  case read =>
    obtain ⟨r, d, heq⟩ := ({ s with inbox := rest } : State).hostRead_eq off
    exact ⟨r, d, (step_hostOp_of_none hnone hin).trans (congrArg _ heq)⟩
  case wait =>
    exact (step_hostOp_of_none hnone hin).trans (congrArg _ (State.pollStatus_of_idle (s := { s with inbox := rest }) hidle))

end Sys2Proof.Machine
end

section
/-! A running command (R49, R66, R97): what the host can do meanwhile, that the command completes with Exec of the state at
acceptance, and that WAIT ends then (R59). -/

namespace Sys2Proof.Machine

/-! ### What a host operation can do (R13) -/

namespace SameButPort

variable {s t u : State}

theorem trans (hst : SameButPort s t) (htu : SameButPort t u) : SameButPort s u := by
  rw [SameButPort, htu, hst]

end SameButPort

/-- A change of the port side alone: of STATUS at most WBUSY is set, and at most a WAIT is put back. -/
structure PortChange (s t : State) : Prop where
  port : SameButPort s t
  status : t.status = s.status ∨ t.status = setFlag s.status .wbusy
  inbox : ∀ op ∈ t.inbox, op = .wait ∨ op ∈ s.inbox

namespace PortChange

variable {s t : State}

theorem getLsbD_status (h : PortChange s t) {k : Nat} (hk : k ≠ 3) : t.status.getLsbD k = s.status.getLsbD k := by
  obtain heq | heq := h.status
  · rw [heq]
  · rw [heq, getLsbD_setFlag, Flag.bit, decide_eq_false hk, Bool.or_false]

theorem flag_of_flag (h : PortChange s t) {f : Flag} (hf : s.flag f = true) : t.flag f = true := by
  obtain heq | heq := h.status
  · rw [State.flag, heq]
    exact hf
  · rw [State.flag, heq, getLsbD_setFlag, Bool.or_eq_true]
    exact .inl hf

end PortChange

/-- A host operation is a reset, an accepted write of an idle FXDP, or a change of the port side that leaves the
sequencer. -/
theorem State.hostOp_cases (s : State) (op : HostOp) :
    (op = .reset ∧ s.hostOp op = s.afterReset) ∨
    (s.flag .busy = false ∧ ∃ off t v, targetOf s.params off = some t ∧
      s.hostOp op = (s.writeTarget v t).respond .writeOk) ∨
    (PortChange s (s.hostOp op) ∧ (s.hostOp op).inFlight = s.inFlight) := by
  cases op with
  | reset => exact .inl ⟨rfl, rfl⟩
  | idle => exact .inr (.inr ⟨⟨rfl, .inl rfl, fun _ => .inr⟩, rfl⟩)
  | rd off =>
    obtain ⟨r, d, heq⟩ := s.hostRead_eq off
    have hread : s.hostOp (.rd off) = { s with responses := r :: s.responses, draws := d } := heq
    rw [hread]
    exact .inr (.inr ⟨⟨rfl, .inl rfl, fun _ => .inr⟩, rfl⟩)
  | wait =>
    have hpoll : s.hostOp .wait = s.pollStatus := rfl
    rw [hpoll]
    cases hbusy : s.flag .busy with
    | false =>
      rw [pollStatus_of_idle hbusy]
      exact .inr (.inr ⟨⟨rfl, .inl rfl, fun _ => .inr⟩, rfl⟩)
    | true =>
      rw [pollStatus_of_busy hbusy]
      exact .inr (.inr ⟨⟨rfl, .inl rfl, fun _ => List.mem_cons.1⟩, rfl⟩)
  | wr off strb v =>
    have hwrite : s.hostOp (.wr off strb v) = s.hostWrite off strb v := rfl
    rw [hwrite]
    obtain ⟨-, heq⟩ | ⟨_, -, -, -, heq⟩ | ⟨t, ht, -, hidle, heq⟩ := s.hostWrite_cases off strb v
    · rw [heq]
      exact .inr (.inr ⟨⟨rfl, .inl rfl, fun _ => .inr⟩, rfl⟩)
    · rw [heq]
      exact .inr (.inr ⟨⟨rfl, .inr rfl, fun _ => .inr⟩, rfl⟩)
    · exact .inr (.inl ⟨hidle, off, t, v, ht, heq⟩)

/-! ### Host steps while a command runs (R49, R97) -/

theorem due_of_inFlight_succ {s : State} {w : Word} {n : Nat} (hflight : s.inFlight = some ⟨w, n + 1⟩) :
    s.due = false := by
  simp [State.due, hflight]

/-- While a command runs and is not due, a host step that is no reset changes the port side only, and the command comes one
step nearer to its completion. -/
theorem step_of_running {s : State} {w : Word} {n : Nat} (hflight : s.inFlight = some ⟨w, n + 1⟩)
    (hbusy : s.flag .busy = true) (hreset : s.inbox.head? ≠ some .reset) :
    ∃ t, step s = .next t ∧ PortChange s t ∧ t.inFlight = some ⟨w, n⟩ := by
  have hpasses : passes s.inFlight = some ⟨w, n⟩ := by
    rw [hflight]
    rfl
  have hdue := due_of_inFlight_succ hflight
  cases hin : s.inbox with
  | nil =>
    have hstep : step s = .next s.tick := by rw [step_of_not_due hdue, hostStep_nil hin]
    exact ⟨s.tick, hstep, ⟨rfl, .inl rfl, fun _ => .inr⟩, hpasses⟩
  | cons op rest =>
    have hstep := step_hostOp hdue hin
    obtain ⟨rfl, -⟩ | ⟨hidle, -⟩ | ⟨⟨hport, hstatus, hinbox⟩, hkept⟩ :=
      State.hostOp_cases { s with inbox := rest, inFlight := passes s.inFlight } op
    · exact absurd (by rw [hin]; rfl) hreset
    · exact absurd (hbusy.symm.trans hidle) (by decide)
    · have hlater (op' : HostOp) (hmem : op' ∈ rest) : op' ∈ s.inbox := hin ▸ List.mem_cons_of_mem op hmem
      exact ⟨_, hstep, ⟨hport, hstatus, fun op' hop' => (hinbox op' hop').imp_right (hlater op')⟩,
        hkept.trans hpasses⟩

/-- Settles O9, by `step_of_running`. -/
theorem busyHostStepsTouchOnlyWbusy : Obligations.BusyHostStepsTouchOnlyWbusy := by
  unfold Obligations.BusyHostStepsTouchOnlyWbusy
  intro s w n hflight hbusy hreset
  obtain ⟨t, hstep, hchange, hkept⟩ := step_of_running hflight hbusy hreset
  exact ⟨t, hstep, hchange.port, hkept,
    fun k _ hk => hchange.getLsbD_status (List.mem_singleton.not.1 hk), hchange.flag_of_flag⟩

/-! ### Completion after the host's steps (R66 item 4, R68) -/

/-- A run is its first step and the rest. -/
theorem run_succ {s t : State} (hstep : step s = .next t) (k : Nat) :
    Host.Core.run core (k + 1) s = Host.Core.run core k t := by
  have hcore : core.step s = .next t := hstep
  simp only [Host.Core.run, hcore]

/-- What a completed command leaves: `u`, the state after Exec, but for the port side; no word latched; BUSY 0, DONE 1, and
the other flags those of `u` but for a WBUSY that the host set. -/
structure Completed (u t : State) : Prop where
  port : SameButPort u t
  inFlight : t.inFlight = none
  idle : t.flag .busy = false
  done : t.flag .done = true
  flags : SameBitsExcept t.status u.status [0, 1, 3]
  wbusy : u.flag .wbusy = true → t.flag .wbusy = true

theorem completed_complete (u : State) : Completed u u.complete := by
  obtain ⟨hbusy, hdone, hothers⟩ := completedStatus_spec u.status
  refine ⟨rfl, rfl, hbusy, hdone, fun k hk hnot => hothers k hk fun hmem => hnot ?_, fun hset => ?_⟩
  · exact (by decide : ∀ k ∈ [0, 1], k ∈ [0, 1, 3]) k hmem
  · rw [State.flag_complete (by decide), hset]

/-- A command that completes with Exec of a state changed at the port alone completes with Exec of the state before. -/
theorem Completed.of_portChange {i : Instr} {s s' u' t : State} (hchange : PortChange s s')
    (hexec : exec i s' = .next u') (h : Completed u' t) : ∃ u, exec i s = .next u ∧ Completed u t := by
  obtain ⟨u, v, hu, hv, hport, -, -, -, -, hsame, hraised⟩ := execIgnoresThePort i s s' hchange.port
  obtain rfl := Host.Outcome.next.inj (hv.symm.trans hexec)
  refine ⟨u, hu, hport.trans h.port, h.inFlight, h.idle, h.done, fun k hk hnot => ?flags, fun hset => h.wbusy ?wbusy⟩
  case flags =>
    have hne : k ≠ 3 := by
      rintro rfl
      exact hnot (by decide)
    exact (h.flags k hk hnot).trans (hsame k (hchange.getLsbD_status hne).symm).symm
  case wbusy =>
    cases hbefore : s.flag .wbusy with
    | false => exact hraised _ hbefore hset
    | true => exact (raisesOnly_of_exec hv).flag_of_flag (hchange.flag_of_flag hbefore)

/-- An accepted command completes after its host steps. -/
theorem run_completes {n : Nat} {s : State} {w : Word} {i : Instr} (hflight : s.inFlight = some ⟨w, n⟩)
    (hbusy : s.flag .busy = true) (hdecode : decode w = .ok i) (hreset : HostOp.reset ∉ s.inbox) :
    ∃ u t, exec i s = .next u ∧ Host.Core.run core (n + 1) s = .next t ∧ Completed u t := by
  induction n generalizing s with
  | zero =>
    obtain ⟨u, hexec, -⟩ := exec_untouched i s
    exact ⟨u, u.complete, hexec, run_succ (step_of_due_exec hflight hdecode hexec) 0, completed_complete u⟩
  | succ n ih =>
    obtain ⟨s', hstep, hchange, hflight'⟩ := step_of_running hflight hbusy fun h => hreset (List.mem_of_head? h)
    have hreset' : HostOp.reset ∉ s'.inbox := fun h => (hchange.inbox _ h).elim nofun hreset
    obtain ⟨u', t, hexec, hrun, hdone⟩ := ih hflight' (hchange.flag_of_flag hbusy) hreset'
    obtain ⟨u, hu, hcompleted⟩ := hdone.of_portChange hchange hexec
    exact ⟨u, t, hu, (run_succ hstep (n + 1)).trans hrun, hcompleted⟩

/-- Settles O11, by `run_completes`. -/
theorem commandComputesFromAcceptance : Obligations.CommandComputesFromAcceptance := by
  unfold Obligations.CommandComputesFromAcceptance
  intro n s w i hflight hbusy hdecode hreset
  obtain ⟨u, t, hexec, hrun, hport, hnone, hidle, hdone, hflags, hwbusy⟩ := run_completes hflight hbusy hdecode hreset
  exact ⟨u, t, hexec, hrun, hport, hnone, hidle, hdone, hflags, hwbusy⟩

/-! ### WAIT (R59) -/

/-- While a command runs and is not due, a poll leaves WAIT pending and STATUS as it is. -/
theorem step_wait_of_running {s : State} {w : Word} {n : Nat} {rest : List HostOp}
    (hflight : s.inFlight = some ⟨w, n + 1⟩) (hbusy : s.flag .busy = true) (hin : s.inbox = .wait :: rest) :
    ∃ t, step s = .next t ∧ t.inFlight = some ⟨w, n⟩ ∧ t.flag .busy = true ∧ t.inbox = .wait :: rest := by
  have hpoll := State.pollStatus_of_busy (s := { s with inbox := rest, inFlight := passes s.inFlight }) hbusy
  refine ⟨_, (step_hostOp (due_of_inFlight_succ hflight) hin).trans (congrArg _ hpoll), ?_, hbusy, rfl⟩
  dsimp only
  rw [hflight]
  rfl

/-- Once the command has completed, WAIT ends with a read of the completed STATUS. -/
theorem run_wait {n : Nat} {s : State} {w : Word} {i : Instr} {rest : List HostOp} (hflight : s.inFlight = some ⟨w, n⟩)
    (hbusy : s.flag .busy = true) (hdecode : decode w = .ok i) (hin : s.inbox = .wait :: rest) :
    ∃ u : State, Host.Core.run core (n + 2) s =
      .next (({ u.complete with inbox := rest } : State).respond (.readOk u.complete.status)) := by
  induction n generalizing s with
  | zero =>
    obtain ⟨u, hexec, huntouched⟩ := exec_untouched i s
    have hpoll := State.pollStatus_of_idle (s := { u.complete with inbox := rest }) (completedStatus_spec u.status).1
    have hwait : u.complete.inbox = .wait :: rest := huntouched.inbox.trans hin
    have hlast := (step_hostOp_of_none (s := u.complete) rfl hwait).trans (congrArg _ hpoll)
    exact ⟨u, (run_succ (step_of_due_exec hflight hdecode hexec) 1).trans (run_succ hlast 0)⟩
  | succ n ih =>
    obtain ⟨t, hstep, hflight', hbusy', hin'⟩ := step_wait_of_running hflight hbusy hin
    obtain ⟨u, hrun⟩ := ih hflight' hbusy' hin'
    exact ⟨u, (run_succ hstep (n + 2)).trans hrun⟩

/-- Settles O12: the last read of `run_wait` is of a completed STATUS. -/
theorem waitEndsWhenCommandCompletes : Obligations.WaitEndsWhenCommandCompletes := by
  unfold Obligations.WaitEndsWhenCommandCompletes
  intro n s w i rest hflight hbusy hdecode hin
  obtain ⟨u, hrun⟩ := run_wait hflight hbusy hdecode hin
  obtain ⟨hidle, hdone, -⟩ := completedStatus_spec u.status
  exact ⟨_, u.complete.status, hrun, rfl, rfl, rfl, rfl, hidle, hdone⟩

end Sys2Proof.Machine
end

section
/-! Whole-machine rules: no step changes the parameters (R8), the invariant and its base at reset (R17, R19, R30, R38, R66), and from
a state that meets it FXDP never stops (R67, R103). -/

namespace Sys2Proof.Machine

/-! ### The parameters (R8) -/

namespace State

/-- An accepted write of a buffer word changes the memory alone. -/
theorem writeTarget_buf (s : State) (v : Word) (a : Nat) : ∃ m, s.writeTarget v (.buf a) = { s with mem := m } :=
  ⟨_, storeWord_eq s a v⟩

/-- An accepted write of CTRL delivers the word and draws a count (R66). -/
theorem writeReg_ctrl (s : State) (v : Word) :
    s.writeReg v .ctrl = (s.deliver v (Config.extraCycles s.draws)).drawn := rfl

theorem params_writeTarget (s : State) (v : Word) (t : Target) : (s.writeTarget v t).params = s.params := by
  cases t with
  | buf a =>
    obtain ⟨m, heq⟩ := s.writeTarget_buf v a
    rw [heq]
  | reg g =>
    cases g with
    | ctrl =>
      rw [writeTarget, writeReg_ctrl]
      obtain ⟨-, -, heq⟩ | ⟨-, -, heq⟩ := s.deliver_cases v (Config.extraCycles s.draws) <;> rw [heq] <;> rfl
    | _ => rfl

theorem params_hostOp (s : State) (op : HostOp) : (s.hostOp op).params = s.params := by
  obtain ⟨-, heq⟩ | ⟨-, _, t, v, -, heq⟩ | ⟨hchange, -⟩ := s.hostOp_cases op
  · rw [heq]
    rfl
  · rw [heq]
    exact params_writeTarget s v t
  · rw [hchange.port]

/-- What a host step is: the passing of time alone, or an operation after it. -/
theorem hostStep_cases (s : State) :
    s.hostStep = s.tick ∨ ∃ op rest, s.hostStep = ({ s with inbox := rest } : State).tick.hostOp op := by
  cases hin : s.inbox with
  | nil => exact .inl (hostStep_nil hin)
  | cons op rest => exact .inr ⟨op, rest, hostStep_cons hin⟩

end State

theorem params_of_step {s t : State} (hstep : step s = .next t) : t.params = s.params := by
  obtain ⟨_, _, u, -, -, hexec, rfl⟩ | ⟨-, rfl⟩ := step_cases hstep
  · exact (untouched_of_exec hexec).params
  · obtain heq | ⟨op, rest, heq⟩ := s.hostStep_cases
    · rw [heq]
      rfl
    · rw [heq]
      exact State.params_hostOp _ op

/-- Settles O27, from the frame of the commands and the host's operations. -/
theorem everyCommandCompletes : Obligations.EveryCommandCompletes := by
  unfold Obligations.EveryCommandCompletes
  refine ⟨fun i s => ?_, fun s t => params_of_step⟩
  obtain ⟨t, hexec, huntouched⟩ := exec_untouched i s
  exact ⟨t, hexec, huntouched.params⟩

/-! ### Reserved bits (R19, R30) -/

/-- All bits from `n` on are 0. -/
def ZeroFrom (n : Nat) (w : Word) : Prop := ∀ k, n ≤ k → w.getLsbD k = false

namespace ZeroFrom

variable {n : Nat} {w : Word}

theorem zero (n : Nat) : ZeroFrom n 0 := fun _ _ => BitVec.getLsbD_zero

theorem setFlag (h : ZeroFrom 7 w) (f : Flag) : ZeroFrom 7 (setFlag w f) := by
  intro k hk
  have hbit : k ≠ f.bit := by
    have hlt : f.bit < 7 := by cases f <;> decide
    omega
  rw [getLsbD_setFlag, h k hk, decide_eq_false hbit, Bool.or_false]

theorem clearFlag (h : ZeroFrom n w) (f : Flag) : ZeroFrom n (clearFlag w f) := fun k hk => by
  rw [getLsbD_clearFlag, h k hk, Bool.false_and]

theorem completedStatus (h : ZeroFrom 7 w) : ZeroFrom 7 (completedStatus w) := (h.clearFlag .busy).setFlag .done

theorem w1cWrite (h : ZeroFrom n w) (v : Word) : ZeroFrom n (w1cWrite w v) := fun k hk => by
  rw [getLsbD_w1cWrite, h k hk, Bool.false_and]

theorem and_pflagsMask (v : Word) : ZeroFrom 2 (v &&& pflagsMask) := fun k hk => by
  rw [BitVec.getLsbD_and, getLsbD_pflagsMask, decide_eq_false (Nat.not_lt.2 hk), Bool.and_false]

theorem of_lt (h : w.toNat < 2 ^ n) : ZeroFrom n w := fun _ hk =>
  Nat.testBit_lt_two_pow (h.trans_le (Nat.pow_le_pow_right (by decide) hk))

theorem signFlags (neg expNeg : Bool) : ZeroFrom 2 (signFlags neg expNeg) := by
  refine of_lt ?_
  rw [toNat_signFlags]
  split <;> split <;> decide

end ZeroFrom

/-! ### What the registers and buffers hold -/

/-- A buffer word is aligned and begins in a window (R44). -/
theorem window_of_targetOf {p : Params} {off : Offset} {a : Nat} (h : targetOf p off = some (.buf a)) :
    a % 4 = 0 ∧ (inOut p a = true ∨ inTxt p a = true) := by
  have hlegal := legalOffset_of_targetOf h
  obtain hlt | hge := Nat.lt_or_ge off.toNat 0x100
  · rw [targetOf_of_lt p hlegal.1 hlt, Option.map_eq_some_iff] at h
    obtain ⟨_, -, hreg⟩ := h
    cases hreg
  · obtain rfl : off.toNat = a := Target.buf.inj (Option.some.inj ((targetOf_of_legal_ge hlegal hge).symm.trans h))
    obtain ⟨halign, hreg | hwindow⟩ := hlegal
    · exact absurd (lt_of_mem_registerOffsets hreg) (Nat.not_lt.2 hge)
    · exact ⟨halign, by rwa [inOut_iff, inTxt_iff]⟩

/-- The part of the invariant that is not about the sequencer: canonical memory in the windows, and reserved bits 0. -/
structure Stored (s : State) : Prop where
  mem_wf : Memory.wf s.mem
  windows : ∀ c ∈ s.mem, inOut s.params c.1 = true ∨ inTxt s.params c.1 = true
  status : ZeroFrom 7 s.status
  pflags : ZeroFrom 2 s.pflags

namespace Stored

variable {s t : State}

theorem raise (h : Stored s) (f : Flag) : Stored (s.raise f) := ⟨h.mem_wf, h.windows, h.status.setFlag f, h.pflags⟩

theorem setAcc (h : Stored s) (v : Wide) : Stored (s.setAcc v) := ⟨h.mem_wf, h.windows, h.status, h.pflags⟩

theorem complete (h : Stored s) : Stored s.complete := ⟨h.mem_wf, h.windows, h.status.completedStatus, h.pflags⟩

theorem writeByte (h : Stored s) {a : Nat} (ha : inOut s.params a = true ∨ inTxt s.params a = true) (b : Byte) :
    Stored (s.writeByte a b) := by
  refine ⟨Memory.write_wf h.mem_wf a b, fun c hc => ?_, h.status, h.pflags⟩
  obtain rfl | hc := Memory.mem_write hc
  · exact ha
  · exact h.windows c hc

theorem outByte (h : Stored s) (i : Nat) (b : Byte) : Stored (s.outByte i b) := by
  obtain ⟨hi, heq⟩ | ⟨-, heq⟩ := s.outByte_cases i b
  · rw [heq]
    exact h.writeByte (.inl ((inOut_iff ..).2 ⟨Nat.le_add_right .., Nat.add_lt_add_left hi _⟩)) b
  · rw [heq]
    exact h.raise _

/-- The buffers are whole words (R8), so a word at an aligned address is in a window where its first byte is. -/
theorem storeWord (h : Stored s) (hwf : s.params.wf = true) {a : Nat} (halign : a % 4 = 0)
    (ha : inOut s.params a = true ∨ inTxt s.params a = true) (v : Word) : Stored (s.storeWord a v) := by
  have hwords : s.params.outLen % 4 = 0 ∧ s.params.txtLen % 4 = 0 := by
    simp only [Params.wf, Bool.and_eq_true, decide_eq_true_eq] at hwf
    omega
  have hbyte (k : Nat) (hk : k < 4) : inOut s.params (a + k) = true ∨ inTxt s.params (a + k) = true := by
    simp only [inOut_iff, inTxt_iff] at ha ⊢
    omega
  have hlow := (h.writeByte (hbyte 0 (by decide)) (v.extractLsb' 0 8)).writeByte (hbyte 1 (by decide)) (v.extractLsb' 8 8)
  exact (hlow.writeByte (hbyte 2 (by decide)) _).writeByte (hbyte 3 (by decide)) _

theorem doEmit (h : Stored s) (e : Nat) (skip : Bool) : Stored (doEmit e skip s) := by
  have hrun := outBytes_keeps (P := Stored) (fun _ i b ht => Stored.outByte ht i b) h s.outptr.toNat
    (emitDigits s.evalReg.toNat e skip).1
  have hptr (p : Word) : Stored { s.outBytes s.outptr.toNat (emitDigits s.evalReg.toNat e skip).1 with outptr := p } :=
    ⟨hrun.mem_wf, hrun.windows, hrun.status, hrun.pflags⟩
  dsimp only [Machine.doEmit]
  split
  · exact (hptr _).raise _
  · exact hptr _

theorem doFmt (h : Stored s) : Stored (doFmt s) := by
  have hprojection : Stored (writeProjection s s.projection) := ⟨h.mem_wf, h.windows, h.status, h.pflags⟩
  obtain ⟨n, t, -, ht, heq⟩ := doFmt_keeps (P := Stored) (fun _ i b ht => Stored.outByte ht i b) hprojection
  rw [heq]
  exact ⟨ht.mem_wf, ht.windows, ht.status, ht.pflags⟩

theorem doParse (h : Stored s) (ae sh : Bool) : Stored (doParse ae sh s) := by
  obtain ⟨sg, w, p, v, heq⟩ := doParse_eq_finish ae sh s
  rw [heq]
  exact ⟨h.mem_wf, h.windows, h.status, ZeroFrom.signFlags sg _⟩

/-- Every command keeps the registers and buffers as they must be. -/
theorem of_exec (h : Stored s) {i : Instr} (hexec : exec i s = .next t) : Stored t := by
  cases i <;> obtain rfl := Host.Outcome.next.inj hexec
  case emit e skip => exact h.doEmit _ skip
  case fmt => exact h.doFmt
  case parse ae sh => exact h.doParse ae sh
  case pclr => exact ⟨h.mem_wf, h.windows, h.status, .zero 2⟩
  case pfdig d =>
    rw [doPfdig_eq]
    exact ⟨h.mem_wf, h.windows, h.status, h.pflags⟩
  case pfcomb =>
    obtain ⟨-, heq⟩ | ⟨-, heq⟩ := doPfcomb_cases s <;> rw [heq]
    · exact h.raise _
    · exact h.setAcc _
  all_goals exact ⟨h.mem_wf, h.windows, h.status, h.pflags⟩

/-- Every accepted write keeps the registers and buffers as they must be. -/
theorem writeTarget (h : Stored s) (hwf : s.params.wf = true) {off : Offset} {t : Target}
    (ht : targetOf s.params off = some t) (v : Word) : Stored (s.writeTarget v t) := by
  cases t with
  | buf a =>
    obtain ⟨halign, hwindow⟩ := window_of_targetOf ht
    exact h.storeWord hwf halign hwindow v
  | reg g =>
    cases g with
    | ctrl =>
      rw [State.writeTarget, State.writeReg_ctrl]
      obtain ⟨-, -, heq⟩ | ⟨-, -, heq⟩ := s.deliver_cases v (Config.extraCycles s.draws) <;> rw [heq]
      · exact ⟨h.mem_wf, h.windows, (h.status.clearFlag _).setFlag _, h.pflags⟩
      · exact ⟨h.mem_wf, h.windows, (h.status.clearFlag _).setFlag _, h.pflags⟩
    | status => exact ⟨h.mem_wf, h.windows, h.status.w1cWrite v, h.pflags⟩
    | pflags => exact ⟨h.mem_wf, h.windows, h.status, .and_pflagsMask v⟩
    | _ => exact ⟨h.mem_wf, h.windows, h.status, h.pflags⟩

theorem of_portChange (h : Stored s) (hchange : PortChange s t) : Stored t := by
  have hstatus : ZeroFrom 7 t.status := by
    obtain heq | heq := hchange.status <;> rw [heq]
    · exact h.status
    · exact h.status.setFlag _
  rw [hchange.port]
  exact ⟨h.mem_wf, h.windows, hstatus, h.pflags⟩

end Stored

/-! ### The invariant (R66) -/

namespace State.Inv

variable {s t : State}

theorem stored (h : s.Inv) : Stored s := ⟨h.mem_wf, h.mem_in_windows, h.status_reserved, h.pflags_reserved⟩

/-- An idle state with nothing latched meets the invariant where its registers and buffers do. -/
theorem of_idle (hwf : t.params.wf = true) (h : Stored t) (hidle : t.flag .busy = false) (hnone : t.inFlight = none) :
    t.Inv where
  params_wf := hwf
  mem_wf := h.mem_wf
  mem_in_windows := h.windows
  status_reserved := h.status
  pflags_reserved := h.pflags
  busy_iff_latched := by rw [hidle, hnone, Option.isSome_none]
  latched_legal f hf := absurd (hnone.symm.trans hf) nofun
  latched_in_ctrl f hf := absurd (hnone.symm.trans hf) nofun
  busy_not_done hbusy := absurd (hidle.symm.trans hbusy) nofun

theorem inFlight_eq_none (h : s.Inv) (hidle : s.flag .busy = false) : s.inFlight = none := by
  rw [← Option.not_isSome_iff_eq_none, ← h.busy_iff_latched, hidle]
  exact Bool.false_ne_true

/-- The passing of time keeps the invariant. -/
theorem tick (h : s.Inv) (ops : List HostOp) : ({ s with inbox := ops } : State).tick.Inv where
  params_wf := h.params_wf
  mem_wf := h.mem_wf
  mem_in_windows := h.mem_in_windows
  status_reserved := h.status_reserved
  pflags_reserved := h.pflags_reserved
  busy_iff_latched := h.busy_iff_latched.trans (Option.isSome_map ..).symm
  latched_legal f hf := by
    obtain ⟨g, hg, rfl⟩ := Option.map_eq_some_iff.1 hf
    exact h.latched_legal g hg
  latched_in_ctrl f hf := by
    obtain ⟨g, hg, rfl⟩ := Option.map_eq_some_iff.1 hf
    exact h.latched_in_ctrl g hg
  busy_not_done := h.busy_not_done

/-- A change of the port side that leaves the sequencer keeps the invariant. -/
theorem of_portChange (h : s.Inv) (hchange : PortChange s t) (hkept : t.inFlight = s.inFlight) : t.Inv := by
  have hstored := h.stored.of_portChange hchange
  have hbusy : t.flag .busy = s.flag .busy := hchange.getLsbD_status (by decide)
  have hdone : t.flag .done = s.flag .done := hchange.getLsbD_status (by decide)
  have hparams : t.params = s.params := by rw [hchange.port]
  have hctrl : t.ctrl = s.ctrl := by rw [hchange.port]
  exact {
    params_wf := hparams ▸ h.params_wf
    mem_wf := hstored.mem_wf
    mem_in_windows := hstored.windows
    status_reserved := hstored.status
    pflags_reserved := hstored.pflags
    busy_iff_latched := by rw [hbusy, hkept, h.busy_iff_latched]
    latched_legal := fun f hf => h.latched_legal f (hkept ▸ hf)
    latched_in_ctrl := fun f hf => hctrl.trans (h.latched_in_ctrl f (hkept ▸ hf))
    busy_not_done := fun hset => hdone.trans (h.busy_not_done (hbusy ▸ hset)) }

theorem respond (h : s.Inv) (r : Response) : (s.respond r).Inv :=
  h.of_portChange ⟨rfl, .inl rfl, fun _ => .inr⟩ rfl

/-- A command word written to an idle CTRL keeps the invariant, whether the word is latched or not. -/
theorem writeCtrl (h : s.Inv) (hidle : s.flag .busy = false) (v : Word) : (s.writeReg v .ctrl).Inv := by
  have hstored : Stored (s.writeReg v .ctrl) := h.stored.writeTarget h.params_wf (targetOf_regOffset s.params .ctrl) v
  rw [writeReg_ctrl] at hstored ⊢
  obtain ⟨i, hi, heq⟩ | ⟨e, he, heq⟩ := s.deliver_cases v (Config.extraCycles s.draws) <;> rw [heq] at hstored ⊢
  · obtain ⟨hbusy, hdone, -⟩ := acceptedStatus_spec s.status
    exact {
      params_wf := h.params_wf
      mem_wf := hstored.mem_wf
      mem_in_windows := hstored.windows
      status_reserved := hstored.status
      pflags_reserved := hstored.pflags
      busy_iff_latched := hbusy
      latched_legal := fun f hf => ⟨i, Option.some.inj hf ▸ hi⟩
      latched_in_ctrl := fun f hf => Option.some.inj hf ▸ rfl
      busy_not_done := fun _ => hdone }
  · refine of_idle h.params_wf hstored ?_ (h.inFlight_eq_none hidle)
    have hbusy : (setFlag (clearFlag s.status .done) .ill).getLsbD 0 = (s.flag .busy && !decide (0 = 1) || decide (0 = 2)) :=
      getLsbD_rejectedStatus s.status 0
    rw [hidle] at hbusy
    exact hbusy

/-- An accepted write of an idle FXDP keeps the invariant. -/
theorem writeTarget (h : s.Inv) (hidle : s.flag .busy = false) {off : Offset} {t : Target}
    (ht : targetOf s.params off = some t) (v : Word) : (s.writeTarget v t).Inv := by
  have hstored := h.stored.writeTarget h.params_wf ht v
  have hnone := h.inFlight_eq_none hidle
  cases t with
  | buf a =>
    obtain ⟨m, heq⟩ := s.writeTarget_buf v a
    rw [heq] at hstored ⊢
    exact of_idle h.params_wf hstored hidle hnone
  | reg g =>
    cases g with
    | ctrl => exact h.writeCtrl hidle v
    | status =>
      refine of_idle h.params_wf hstored ?_ hnone
      have hbusy : (w1cWrite s.status v).getLsbD 0 = (s.flag .busy && !(decide (1 ≤ 0 ∧ 0 ≤ 6) && v.getLsbD 0)) :=
        getLsbD_w1cWrite s.status v 0
      rw [hidle, Bool.false_and] at hbusy
      exact hbusy
    | _ => exact of_idle h.params_wf hstored hidle hnone

/-- The registers and buffers after a reset meet the invariant, whatever the model's own fields are (R114). -/
theorem afterReset (hwf : s.params.wf = true) : s.afterReset.Inv :=
  of_idle hwf ⟨Memory.reset_wf, nofun, .zero 7, .zero 2⟩ BitVec.getLsbD_zero rfl

theorem reset : State.reset.Inv :=
  of_idle (by decide) ⟨Memory.reset_wf, nofun, .zero 7, .zero 2⟩ BitVec.getLsbD_zero rfl

theorem hostOp (h : s.Inv) (op : HostOp) : (s.hostOp op).Inv := by
  obtain ⟨-, heq⟩ | ⟨hidle, off, t, v, ht, heq⟩ | ⟨hchange, hkept⟩ := s.hostOp_cases op
  · rw [heq]
    exact afterReset h.params_wf
  · rw [heq]
    exact (h.writeTarget hidle ht v).respond _
  · exact h.of_portChange hchange hkept

end State.Inv

/-- Settles O23: a completion leaves an idle FXDP, and each host operation keeps the invariant. -/
theorem stepKeepsInv : Obligations.StepKeepsInv := by
  unfold Obligations.StepKeepsInv
  intro s t h hstep
  obtain ⟨_, _, u, -, -, hexec, rfl⟩ | ⟨-, rfl⟩ := step_cases hstep
  · exact .of_idle ((untouched_of_exec hexec).params ▸ h.params_wf) (h.stored.of_exec hexec).complete
      (completedStatus_spec u.status).1 rfl
  · obtain heq | ⟨op, rest, heq⟩ := s.hostStep_cases
    · rw [heq]
      exact h.tick s.inbox
    · rw [heq]
      exact (h.tick rest).hostOp op

theorem inFlight_of_due {s : State} (h : s.due = true) : ∃ w, s.inFlight = some ⟨w, 0⟩ := by
  unfold State.due at h
  split at h
  · next w hw => exact ⟨w, hw⟩
  · cases h

/-- Settles O26: a latched word is legal, so its command runs. -/
theorem neverStops : Obligations.NeverStops := by
  unfold Obligations.NeverStops
  intro s h
  cases hdue : s.due with
  | false => exact ⟨_, step_of_not_due hdue⟩
  | true =>
    obtain ⟨w, hflight⟩ := inFlight_of_due hdue
    obtain ⟨i, hdecode⟩ := h.latched_legal _ hflight
    obtain ⟨t, hexec, -⟩ := exec_untouched i s
    exact ⟨_, step_of_due_exec hflight hdecode hexec⟩

end Sys2Proof.Machine
end

section
/-! The ranges of FSIGN, FINT, FFRAC, FSCALE and LEN (R26, R74, R78): only FPROJ and FMT write them, from a projection, and a
reset clears them. -/

namespace Sys2Proof.Machine

namespace State.ResultRanges

variable {s t : State}

/-- The ranges are of five registers alone. -/
theorem congr (h : s.ResultRanges) (hfsign : t.fsign = s.fsign) (hfint : t.fint = s.fint) (hffrac : t.ffrac = s.ffrac)
    (hfscale : t.fscale = s.fscale) (hlen : t.len = s.len) : t.ResultRanges := by
  refine ⟨?_, ?_, ?_, ?_⟩ <;> simp only [hfsign, hfint, hffrac, hfscale, hlen]
  · exact h.fsign_bit
  · exact h.fint_range
  · exact h.fraction_range
  · exact h.len_range

theorem raise (h : s.ResultRanges) (f : Flag) : (s.raise f).ResultRanges := h.congr rfl rfl rfl rfl rfl

theorem setAcc (h : s.ResultRanges) (v : Wide) : (s.setAcc v).ResultRanges := h.congr rfl rfl rfl rfl rfl

theorem outByte (h : s.ResultRanges) (i : Nat) (b : Byte) : (s.outByte i b).ResultRanges := by
  rw [outByte_eq]
  exact h.congr rfl rfl rfl rfl rfl

/-- A projection is in range (R74). -/
theorem writeProjection (h : s.ResultRanges) : (writeProjection s s.projection).ResultRanges := by
  obtain ⟨hint, hffrac, hscale⟩ := toNat_writeProjection_projection s
  refine ⟨?sign, hint.trans_le (project_ip_le ..), .inr ⟨?scale, ?fraction⟩, h.len_range⟩
  case sign =>
    rw [toNat_fsign_writeProjection]
    split <;> decide
  case scale =>
    rw [hscale, State.projection, project_s]
    simpa using scale_cases _
  case fraction =>
    rw [hffrac, hscale]
    exact project_fs_lt ..

theorem doFmt (h : s.ResultRanges) : (doFmt s).ResultRanges := by
  obtain ⟨n, t, hn, ht, heq⟩ := doFmt_keeps (P := State.ResultRanges) (fun _ i b ht => outByte ht i b) h.writeProjection
  have hlen : (BitVec.ofNat 32 n).toNat ≤ 12 := (BitVec.toNat_ofNat ..).trans_le ((Nat.mod_le ..).trans hn)
  rw [heq]
  exact ⟨ht.fsign_bit, ht.fint_range, ht.fraction_range, hlen⟩

/-- Every command keeps the ranges. -/
theorem of_exec (h : s.ResultRanges) {i : Instr} (hexec : exec i s = .next t) : t.ResultRanges := by
  cases i <;> obtain rfl := Host.Outcome.next.inj hexec
  case emit e skip =>
    rw [doEmit_eq]
    exact h.congr rfl rfl rfl rfl rfl
  case fproj => exact h.writeProjection
  case fmt => exact h.doFmt
  case pfdig d =>
    rw [doPfdig_eq]
    exact h.congr rfl rfl rfl rfl rfl
  case pfcomb =>
    obtain ⟨-, heq⟩ | ⟨-, heq⟩ := doPfcomb_cases s <;> rw [heq]
    · exact h.raise _
    · exact h.setAcc _
  case parse ae sh =>
    obtain ⟨sg, w, p, v, heq⟩ := doParse_eq_finish ae sh s
    rw [heq]
    exact h.congr rfl rfl rfl rfl rfl
  all_goals exact h.congr rfl rfl rfl rfl rfl

/-- The five registers are read-only for the host (R17). -/
theorem writeTarget (h : s.ResultRanges) (v : Word) (t : Target) : (s.writeTarget v t).ResultRanges := by
  cases t with
  | buf a =>
    obtain ⟨m, heq⟩ := s.writeTarget_buf v a
    rw [heq]
    exact h.congr rfl rfl rfl rfl rfl
  | reg g =>
    cases g with
    | ctrl =>
      rw [State.writeTarget, State.writeReg_ctrl]
      obtain ⟨-, -, heq⟩ | ⟨-, -, heq⟩ := s.deliver_cases v (Config.extraCycles s.draws) <;> rw [heq]
      · exact h.congr rfl rfl rfl rfl rfl
      · exact h.congr rfl rfl rfl rfl rfl
    | _ => exact h.congr rfl rfl rfl rfl rfl

/-- The ranges hold after a reset (R114). -/
theorem reset : State.reset.ResultRanges :=
  ⟨Nat.zero_le 1, Nat.zero_le 32768, .inl ⟨rfl, rfl⟩, Nat.zero_le 12⟩

theorem hostOp (h : s.ResultRanges) (op : HostOp) : (s.hostOp op).ResultRanges := by
  obtain ⟨-, heq⟩ | ⟨-, _, t, v, -, heq⟩ | ⟨hchange, -⟩ := s.hostOp_cases op
  · rw [heq]
    exact reset.congr rfl rfl rfl rfl rfl
  · rw [heq]
    exact (h.writeTarget v t).congr rfl rfl rfl rfl rfl
  · rw [hchange.port]
    exact h.congr rfl rfl rfl rfl rfl

end State.ResultRanges

/-- Settles O24: a completion follows a command, which keeps the ranges, and so does each host operation. -/
theorem stepKeepsResultRanges : Obligations.StepKeepsResultRanges := by
  unfold Obligations.StepKeepsResultRanges
  intro s t h hstep
  obtain ⟨_, _, u, -, -, hexec, rfl⟩ | ⟨-, rfl⟩ := step_cases hstep
  · exact (h.of_exec hexec).congr rfl rfl rfl rfl rfl
  · obtain heq | ⟨op, rest, heq⟩ := s.hostStep_cases <;> rw [heq]
    · exact h.congr rfl rfl rfl rfl rfl
    · exact (h.congr rfl rfl rfl rfl rfl : ({ s with inbox := rest } : State).tick.ResultRanges).hostOp op

/-- Settles O25: what holds after a reset holds of the reset state. -/
theorem resetMeetsInvariants : Obligations.ResetMeetsInvariants := by
  unfold Obligations.ResetMeetsInvariants
  exact ⟨.reset, .reset⟩

end Sys2Proof.Machine
end
